-- ==== Sys2Proof/Config/Params.lean ====
section
/-! DEFINITION. The implementation parameters of spec 00_scope.md section 4, one name each (R5: every
number is read through its parameter name), and the sizes that follow from them. The two widths that
stand in types are `abbrev`s. -/

namespace Sys2Proof.Config

/-- `FLAG`, the octet `01111110`, first bit on the left (R80). -/
def flag : List Bool := [false, true, true, true, true, true, true, false]

/-- The length of `FLAG`. -/
def flagBits : Nat := flag.length

/-- `CC_MAX_DATA_BYTES` (R76). -/
def ccMaxDataBytes : Nat := 254

/-- `STUFF_MAX_DATA_BYTES` (R76). -/
def stuffMaxDataBytes : Nat := 254

/-- `LEN_FIELD_BITS` (R81). -/
def lenFieldBits : Nat := 8

/-- `PAD_FIELD_BITS` (R81, R83, R85). -/
abbrev padFieldBits : Nat := 8

/-- The header of a character-count frame: its length and its padding field (R81). -/
def ccHeaderBits : Nat := lenFieldBits + padFieldBits

/-- The same in bytes: what `LEN` counts for the header (R81). -/
def ccHeaderBytes : Nat := ccHeaderBits / 8

/-- `CRC_BITS` (R105). -/
abbrev crcBits : Nat := 32

/-- `CRC_POLY`, the generator of R104 without its `x^32` term. PRESUMED, see
notes/assumptions/12.md: the spec marks the value as general knowledge (G1). -/
def crcPoly : BitVec crcBits := 0x04C11DB7#crcBits

/-- `CRC_MIN_BITS` (R106). -/
def crcMinBits : Nat := 64

/-- `SAMPLES_PER_BIT` (R131, R132, R137). -/
def samplesPerBit : Nat := 100

/-- `QAM_BITS_PER_SYMBOL` (R136). -/
def qamBitsPerSymbol : Nat := 3

/-- `HAS_QAM8`, the default the spec gives it (R4). The machine carries the parameter in
`State.hasQam8`, so that both values are modelled (notes/assumptions/3.md). -/
def hasQam8 : Bool := false

end Sys2Proof.Config
end

