-- ==== Sys2Proof/Word.lean ====
section
/-! DEFINITION. The data the block computes on: bits, symbols, numbers, frame records and signal
samples (spec 00_scope.md section 5, 10_state.md R13 to R16, R22). -/

namespace Sys2Proof

/-- A bit; `true` is 1. -/
abbrev Bit := Bool

/-- "ordered sequence of Bit, insertion order significant": index 0 is the first bit (R13). -/
abbrev BitSeq := List Bit

/-- A 2-bit symbol code, read as a two's-complement integer (R14, R50). -/
abbrev SymCode := BitVec 2

abbrev Byte := BitVec 8

/-- A number of `NUM`, the exact reals (R22, R130), as plain data: a rational written out, or a real
number the host has, known by its name. `Number.value` (Safety.lean) is the real number, for whatever
real numbers the names stand for. DESIGN CHOICE, see notes/assumptions/4.md. -/
inductive Number
  /-- A rational number. -/
  | rat (q : Rat)
  /-- The real number called `name`: any real number. -/
  | real (name : Nat)
deriving DecidableEq, Repr, Inhabited

/-- A frame record: the enclosed bits and the declared padding-bit count (R15). -/
structure Frame where
  body : BitSeq
  pad  : BitVec Config.padFieldBits
deriving DecidableEq, Repr, Inhabited

/-- Real part of a constellation point, in {-1, 1} (R136). -/
inductive QamRe
  | neg1
  | pos1
deriving DecidableEq, Repr, Inhabited

/-- Imaginary part of a constellation point, in {-3, -1, 1, 3} (R136). -/
inductive QamIm
  | neg3
  | neg1
  | pos1
  | pos3
deriving DecidableEq, Repr, Inhabited

/-- A complex amplitude of the 8-QAM constellation (R136). -/
structure QamPoint where
  re : QamRe
  im : QamIm
deriving DecidableEq, Repr, Inhabited

/-- One sample of the signal buffer (R16, R130), exact: the right-hand side of the rule's assignment
to it, with the numbers it was computed from. `Sample.value` (Safety.lean) is the real or complex
number it is. -/
inductive Sample
  /-- The number 0: a sample of a 0 bit under ASK (R131). -/
  | zero
  /-- `amp * sin(2π * freq * t / 100)` (R131, R132). -/
  | sine (amp freq : Number) (t : Nat)
  /-- `a * exp(j * 2π * freq * (t / 100))` (R137). -/
  | phasor (a : QamPoint) (freq : Number) (t : Nat)
deriving DecidableEq, Repr

end Sys2Proof
end

