-- ==== Sys2Proof/Syntax.lean ====
section
/-! DEFINITION. The commands (spec 30_encoding.md): the fields of a command word, the operations,
and one constructor per row of opcode_table.json. No command has an operand field. -/

namespace Sys2Proof

/-- The fields of the 8-bit command word: `op[7:4] sch[3:2] z[1] h[0]` (R45). -/
structure CmdFields where
  op  : BitVec 4
  sch : BitVec 2
  z   : BitVec 1
  h   : BitVec 1
deriving DecidableEq, Repr

/-- The ten operations of the `op` field (R46). -/
inductive Op
  | lenc
  | ldec
  | lmap
  | split
  | protect
  | wrap
  | deframe
  | check
  | join
  | mod
deriving DecidableEq, Repr

/-- The `KIND` tag of the working buffer (R12). The reserved value 3 is no kind. -/
inductive Kind
  | bits
  | syms
  | frames
deriving DecidableEq, Repr

/-- The commands, in the order of opcode_table.json. -/
inductive Instr
  | lencNrz
  | lencMan
  | lencAmi
  | ldecNrz
  | ldecMan
  | ldecAmi
  | lmapNrz
  | lmapMan
  | lmapAmi
  | splitCc
  | splitByte
  | splitBit
  | protectPar
  | protectCrc
  | protectHam
  | wrapCc
  | wrapByte
  | wrapBit
  | wrapBith
  | deframeCc
  | deframeByte
  | deframeBit
  | deframeBith
  | checkPar
  | checkCrc
  | checkHam
  | join
  | modAsk
  | modFsk
  | modQam8
deriving DecidableEq, Repr

/-- The operation a command belongs to (R46). -/
def Instr.op : Instr → Op
  | .lencNrz | .lencMan | .lencAmi => .lenc
  | .ldecNrz | .ldecMan | .ldecAmi => .ldec
  | .lmapNrz | .lmapMan | .lmapAmi => .lmap
  | .splitCc | .splitByte | .splitBit => .split
  | .protectPar | .protectCrc | .protectHam => .protect
  | .wrapCc | .wrapByte | .wrapBit | .wrapBith => .wrap
  | .deframeCc | .deframeByte | .deframeBit | .deframeBith => .deframe
  | .checkPar | .checkCrc | .checkHam => .check
  | .join => .join
  | .modAsk | .modFsk | .modQam8 => .mod

/-- The input `KIND` of a command (R46). -/
def Instr.inKind : Instr → Kind
  | .lencNrz | .lencMan | .lencAmi => .bits
  | .ldecNrz | .ldecAmi | .lmapNrz | .lmapAmi => .syms
  | .ldecMan | .lmapMan => .bits
  | .splitCc | .splitByte | .splitBit => .bits
  | .protectPar | .protectCrc | .protectHam => .frames
  | .wrapCc | .wrapByte | .wrapBit | .wrapBith => .frames
  | .deframeCc | .deframeByte | .deframeBit | .deframeBith => .bits
  | .checkPar | .checkCrc | .checkHam => .frames
  | .join => .frames
  | .modAsk | .modFsk | .modQam8 => .bits

/-- The output `KIND` of a command (R46); `MOD` leaves `BUF`, hence its kind, unchanged (R134). -/
def Instr.outKind : Instr → Kind
  | .lencNrz | .lencAmi => .syms
  | .lencMan => .bits
  | .ldecNrz | .ldecMan | .ldecAmi => .bits
  | .lmapNrz | .lmapMan | .lmapAmi => .bits
  | .splitCc | .splitByte | .splitBit => .frames
  | .protectPar | .protectCrc | .protectHam => .frames
  | .wrapCc | .wrapByte | .wrapBit | .wrapBith => .bits
  | .deframeCc | .deframeByte | .deframeBit | .deframeBith => .frames
  | .checkPar | .checkCrc | .checkHam => .frames
  | .join => .bits
  | .modAsk | .modFsk | .modQam8 => .bits

end Sys2Proof
end

