-- ==== Sys2Proof/Decode.lean ====
section
/-! DEFINITION. The decoder of the 8-bit command word, total, and the encoder (spec 30_encoding.md
sections 1 and 2). Whether `0xA8` is legal depends on `HAS_QAM8` (R56): the word decodes here, and
`execModQam8` raises `IllegalCommand` when the block does not have it. -/

namespace Sys2Proof

/-- Why a command word is reserved (R53). -/
inductive Reserved
  /-- `z = 1` (R49). -/
  | zSet
  /-- `op` is `0x0` or `0xB` to `0xF` (R46). -/
  | opReserved
  /-- `sch = 3`, or `JOIN` with `sch ≠ 0` (R47). -/
  | schReserved
  /-- `h = 1` where it must be 0 (R48). -/
  | hReserved
deriving DecidableEq, Repr

/-- The fields of a command word (R45). -/
def fieldsOf (w : Byte) : CmdFields :=
  { op := w.extractLsb' 4 4, sch := w.extractLsb' 2 2, z := w.extractLsb' 1 1, h := w.extractLsb' 0 1 }

/-- The word with the given fields (R45). -/
def wordOf (c : CmdFields) : Byte := c.op ++ c.sch ++ c.z ++ c.h

/-- The operation an `op` code names (R46). -/
def opOf (op : BitVec 4) : Option Op :=
  match op.toNat with
  | 0x1 => some .lenc
  | 0x2 => some .ldec
  | 0x3 => some .lmap
  | 0x4 => some .split
  | 0x5 => some .protect
  | 0x6 => some .wrap
  | 0x7 => some .deframe
  | 0x8 => some .check
  | 0x9 => some .join
  | 0xA => some .mod
  | _ => none

/-- The command an operation and a scheme selector name when `h = 0` (R47). -/
def schemeOf (o : Op) (sch : BitVec 2) : Option Instr :=
  match o, sch.toNat with
  | .lenc, 0 => some .lencNrz
  | .lenc, 1 => some .lencMan
  | .lenc, 2 => some .lencAmi
  | .ldec, 0 => some .ldecNrz
  | .ldec, 1 => some .ldecMan
  | .ldec, 2 => some .ldecAmi
  | .lmap, 0 => some .lmapNrz
  | .lmap, 1 => some .lmapMan
  | .lmap, 2 => some .lmapAmi
  | .split, 0 => some .splitCc
  | .split, 1 => some .splitByte
  | .split, 2 => some .splitBit
  | .protect, 0 => some .protectPar
  | .protect, 1 => some .protectCrc
  | .protect, 2 => some .protectHam
  | .wrap, 0 => some .wrapCc
  | .wrap, 1 => some .wrapByte
  | .wrap, 2 => some .wrapBit
  | .deframe, 0 => some .deframeCc
  | .deframe, 1 => some .deframeByte
  | .deframe, 2 => some .deframeBit
  | .check, 0 => some .checkPar
  | .check, 1 => some .checkCrc
  | .check, 2 => some .checkHam
  | .join, 0 => some .join
  | .mod, 0 => some .modAsk
  | .mod, 1 => some .modFsk
  | .mod, 2 => some .modQam8
  | _, _ => none

/-- The command that `h = 1` turns a command into: only the bit-stuffing framer has one (R48). -/
def headerFormOf : Instr → Option Instr
  | .wrapBit => some .wrapBith
  | .deframeBit => some .deframeBith
  | _ => none

/-- The command a word spells, or why it is reserved (R45 to R49, R53). -/
def decode (w : Byte) : Except Reserved Instr :=
  let c := fieldsOf w
  if c.z = 1#1 then .error .zSet
  else match opOf c.op with
    | none => .error .opReserved
    | some o =>
      match schemeOf o c.sch with
      | none => .error .schReserved
      | some i =>
        if c.h = 0#1 then .ok i
        else match headerFormOf i with
          | some j => .ok j
          | none => .error .hReserved

/-- The command read from a word whose bits are `w`, numbered as opcode_table.json numbers them:
every row is one 8-bit word. -/
def decodeTableWord (nbits w : Nat) : Option Instr :=
  if nbits = 8 ∧ w < 256 then
    match decode (BitVec.ofNat 8 w) with
    | .ok i => some i
    | .error _ => none
  else none

/-- The `op` code of an operation (R46). -/
def opCode : Op → BitVec 4
  | .lenc => 0x1#4
  | .ldec => 0x2#4
  | .lmap => 0x3#4
  | .split => 0x4#4
  | .protect => 0x5#4
  | .wrap => 0x6#4
  | .deframe => 0x7#4
  | .check => 0x8#4
  | .join => 0x9#4
  | .mod => 0xA#4

/-- The scheme selector of a command (R47). -/
def schCode : Instr → BitVec 2
  | .lencNrz | .ldecNrz | .lmapNrz => 0#2
  | .lencMan | .ldecMan | .lmapMan => 1#2
  | .lencAmi | .ldecAmi | .lmapAmi => 2#2
  | .splitCc | .wrapCc | .deframeCc => 0#2
  | .splitByte | .wrapByte | .deframeByte => 1#2
  | .splitBit | .wrapBit | .wrapBith | .deframeBit | .deframeBith => 2#2
  | .protectPar | .checkPar => 0#2
  | .protectCrc | .checkCrc => 1#2
  | .protectHam | .checkHam => 2#2
  | .join => 0#2
  | .modAsk => 0#2
  | .modFsk => 1#2
  | .modQam8 => 2#2

/-- The `h` bit of a command (R48). -/
def hCode : Instr → BitVec 1
  | .wrapBith | .deframeBith => 1#1
  | _ => 0#1

/-- The word of a command (R45 to R49). -/
def encode (i : Instr) : Byte :=
  wordOf { op := opCode i.op, sch := schCode i, z := 0#1, h := hCode i }

end Sys2Proof
end

