-- ==== Sys2Proof/Config.lean ====
section
/-! DEFINITION. The free values: constants without a body, of which no proof can know the value. The
parameters whose value the spec gives are in Config/Params.lean. -/

namespace Sys2Proof.Config

/-- The six entries of `QAM_TABLE` the source does not give (R136, U12): free, only their ranges
are known (`QamPoint`). The two entries it gives are in `Machine.qamTable`. -/
opaque qamFree : BitSeq → QamPoint

/-- What a host reads from an unwritten parameter register (U6): free, one number per read. -/
opaque freeParam : Nat → Number

/-- The value left in `BUF` by a host write of `KIND = 0` over another kind: the spec gives none. -/
opaque freeBits : Nat → BitSeq

/-- The value left in `BUF` by a host write of `KIND = 1` over another kind: the spec gives none. -/
opaque freeSyms : Nat → List SymCode

/-- The value left in `BUF` by a host write of `KIND = 2` over another kind: the spec gives none. -/
opaque freeFrames : Nat → List Frame

end Sys2Proof.Config
end

