-- ==== Sys2Proof/Machine/Bits.lean ====
section
/-! DEFINITION. The bit-sequence notation of spec 00_scope.md section 5.1: slices, `val`, `bits_N`,
`XOR`, `ceil8`, `bit`, `popcount`, `ispow2`, `bitlen`; and cutting a sequence into pieces. -/

namespace Sys2Proof.Machine

/-- `s[i..j)`: elements `i` to `j-1`; empty when `i ≥ j`. -/
def slice (s : BitSeq) (i j : Nat) : BitSeq := (s.take j).drop i

/-- `rep(b, n)`. -/
def rep (b : Bit) (n : Nat) : BitSeq := List.replicate n b

/-- `val(s)`: the number a sequence spells, most significant bit first. -/
def val (s : BitSeq) : Nat := s.foldl (fun a b => 2 * a + b.toNat) 0

/-- `bits_n(v)`: the `n` bits of `v`, most significant first (R31). -/
def bitsN (n v : Nat) : BitSeq := (List.range n).map fun i => v.testBit (n - 1 - i)

/-- The value of the `n` bits at index `p` of `v`: `val(v[p..p+n))`. -/
def field (v : BitSeq) (p n : Nat) : Nat := val (slice v p (p + n))

/-- The value of the octet at index `p` of `v`. -/
def octet (v : BitSeq) (p : Nat) : Nat := field v p 8

/-- `b` cut from index 0 into pieces of `w` bits, the last one shorter if need be, with `fuel` at
least the number of pieces. -/
def piecesFrom (w : Nat) : Nat → BitSeq → List BitSeq
  | 0, _ => []
  | fuel + 1, b =>
    match b with
    | [] => []
    | _ :: _ => b.take w :: piecesFrom w fuel (b.drop w)

/-- `b` cut into pieces of `w` bits (R76, R136). -/
def pieces (w : Nat) (b : BitSeq) : List BitSeq := piecesFrom w b.length b

/-- `XOR(s)`: the xor of all elements, 0 for the empty sequence. -/
def xorAll (s : BitSeq) : Bit := s.foldl Bool.xor false

/-- `ceil8(n)`: how many bits bring `n` up to a multiple of 8. -/
def ceil8 (n : Nat) : Nat := (8 - n % 8) % 8

/-- `bitlen(k)`: the number of binary digits of `k`. -/
def bitlen (k : Nat) : Nat := if k = 0 then 0 else Nat.log2 k + 1

/-- `popcount(k)`: the number of 1 bits of `k`. -/
def popcount (k : Nat) : Nat := ((List.range (bitlen k)).filter k.testBit).length

/-- `ispow2(k)`: exactly one 1 bit. -/
def isPow2 (k : Nat) : Bool := popcount k == 1

/-- Bits as octets, each most significant bit first (R31). -/
def bitsOfBytes (l : List Nat) : BitSeq := l.flatMap (bitsN 8)

end Sys2Proof.Machine
end

