-- ==== Sys2Proof/Machine/State.lean ====
section
/-! DEFINITION. The machine's state (spec 10_state.md), the host's actions that drive it (20_memory.md
R40), the causes a command can raise (60_exceptions.md R151), and the state after reset (R29). -/

namespace Sys2Proof.Machine

/-- Why a step could stop the machine: it cannot. A spec "fault" is a fault ENTRY (R152), after which
the block goes on (R153), so it is a next state; every command on every input has an outcome (R180).
The type has no constructor, so no meaning can answer with a machine fault. -/
inductive Fault
deriving DecidableEq, Repr

/-- Why a command has no meaning in the model. -/
inductive Refusal
  /-- Raised by an arm of `exec` that has no meaning yet; safe. No arm is left that raises it. -/
  | notModelled (mnemonic : String)
deriving DecidableEq, Repr

/-- The causes of R151; their codes are `Cause.code`. -/
inductive Cause
  /-- The command word is reserved (R53). -/
  | illegalCommand
  /-- `BUF.KIND` is not the command's input kind (R54). -/
  | kindMismatch
  /-- A needed parameter register is unwritten (R133). -/
  | paramUnset
  /-- Odd Manchester input (R65). -/
  | manOddLength
  /-- Header cut short, or `LEN` exceeds the bytes left (R88). -/
  | hdrLenExceeds
  /-- `LEN < 2` (R88). -/
  | hdrLenTooSmall
  /-- Length not a multiple of 8 (R88, R89). -/
  | notByteMultiple
  /-- No `FLAG` where a frame must start (R89 to R91). -/
  | noOpenFlag
  /-- No `FLAG` after the opening flag (R89 to R91). -/
  | noCloseFlag
  /-- Padding-count header missing (R89, R91). -/
  | noPadHeader
  /-- Declared padding exceeds the body (R88, R89, R91, R100). -/
  | padExceedsBody
  /-- The frame length does not fit the length byte (R82). -/
  | lenOverflow
  /-- Invalid constellation index (R136): unreachable, every bit triple is a key. -/
  | qamIndex
  /-- Nothing left to check (R102, R108). -/
  | checkTooShort
  /-- Recorded fill exceeds the body (R108). -/
  | fillExceedsBody
deriving DecidableEq, Repr

/-- What a command raises: the cause and the two values reported with it (R152). -/
structure Raise where
  cause : Cause
  finfo : Nat
  fpos  : Nat
deriving DecidableEq, Repr

/-- The working buffer `BUF = (KIND, value)`: the value always has the type its kind says (R12 to R15). -/
inductive Buf
  | bits (b : BitSeq)
  | syms (y : List SymCode)
  | frames (f : List Frame)
deriving DecidableEq, Repr

/-- The modulator parameter registers, numbers 8 to 12 (R22, R28). -/
inductive Param
  | amp
  | f
  | f1
  | f2
  | fmod
deriving DecidableEq, Repr

/-- The read-only registers (R28). -/
inductive ReadOnlyReg
  | status
  | cause
  | finfo
  | fpos
  | crcrem
  | syn
deriving DecidableEq, Repr

/-- The sixteen register numbers of R28; `Reg.number` gives the number. -/
inductive Reg
  | cmd
  | readOnly (r : ReadOnlyReg)
  | kind
  | param (p : Param)
  | reserved (i : Fin 3)
deriving DecidableEq, Repr

/-- A host write of a numbered register, with a value of the register's own width (R28). -/
inductive RegWrite
  | cmd (w : Byte)
  | readOnly (r : ReadOnlyReg) (v : Nat)
  | kind (k : BitVec 2)
  | param (p : Param) (v : Number)
  | reserved (i : Fin 3) (v : Nat)
deriving DecidableEq, Repr

/-- What a host can read (R40): a numbered register, or a buffer through the data port. -/
inductive ReadPort
  | reg (r : Reg)
  | buf
  | sig
  | sigNsym
  | sigTime
  | filltab
  | eflags
deriving DecidableEq, Repr

/-- What a host read returns. -/
inductive ReadValue
  | nat (v : Nat)
  | num (v : Number)
  | buf (b : Buf)
  | sig (l : List Sample)
  | time (l : List Rat)
  | filltab (l : List Byte)
  | eflags (l : List (BitVec 2))
deriving DecidableEq, Repr

/-- One action of the host between commands (R40, R57), among them the write of `CMD` that issues a
command (R26) and the reset event (R170). -/
inductive HostAction
  /-- A write of a numbered register; a write of `CMD` issues a command. -/
  | write (w : RegWrite)
  /-- A read; it changes nothing of the block (R35). -/
  | read (p : ReadPort)
  /-- `load`: write `BUF` whole, kind and value. -/
  | loadBuf (b : Buf)
  /-- `set FILLTAB`. -/
  | setFilltab (t : List Byte)
  /-- `flip i`: invert bit `i` of a BITS buffer. -/
  | flip (i : Nat)
  /-- The reset event, delivered by the platform. -/
  | reset
  /-- The host reads `STATUS` and ends its sequence when `FAULT` is set (R51, R140, R143). -/
  | stopOnFault
deriving DecidableEq, Repr

end Sys2Proof.Machine

namespace Sys2Proof.Machine

/-- The machine. The fields down to `fmod` are the spec's state; the last four are the model's own
(notes/assumptions/1.md, 3.md, 7.md, 9.md). -/
structure State where
  /-- `BUF` (R12). -/
  buf       : Buf
  /-- `SIG` (R16). -/
  sig       : List Sample
  /-- `SIG_NSYM` (R16). -/
  sigNsym   : Nat
  /-- `SIG_TIME` (R16). -/
  sigTime   : List Rat
  /-- `STATUS` (R17). -/
  status    : BitVec 8
  /-- `CAUSE` (R18). -/
  cause     : BitVec 8
  /-- `FINFO` (R19). -/
  finfo     : Nat
  /-- `FPOS` (R19). -/
  fpos      : Nat
  /-- `FILLTAB` (R20). -/
  filltab   : List Byte
  /-- `EFLAGS` (R21). -/
  eflags    : List (BitVec 2)
  /-- `CRCREM` (R23). -/
  crcrem    : BitVec Config.crcBits
  /-- `SYN` (R24). -/
  syn       : Nat
  /-- `AMP` (R22): `none` is the spec's own mark "unwritten". -/
  amp       : Option Number
  /-- `F` (R22). -/
  f         : Option Number
  /-- `F1` (R22). -/
  f1        : Option Number
  /-- `F2` (R22). -/
  f2        : Option Number
  /-- `FMOD` (R22). -/
  fmod      : Option Number
  /-- The implementation parameter `HAS_QAM8` (R4, R27); no step changes it. -/
  hasQam8   : Bool
  /-- What the host will do next, first action first; the step performs the first. -/
  host      : List HostAction
  /-- What the host's reads have returned, oldest first. -/
  readLog   : List ReadValue
  /-- How many free values have been drawn. -/
  freeCount : Nat
deriving DecidableEq, Repr

/-- The machine right after reset (R29, R171), with nothing for the host to do. -/
def State.reset : State where
  buf       := .bits []
  sig       := []
  sigNsym   := 0
  sigTime   := []
  status    := 0#8
  cause     := 0#8
  finfo     := 0
  fpos      := 0
  filltab   := []
  eflags    := []
  crcrem    := 0#Config.crcBits
  syn       := 0
  amp       := none
  f         := none
  f1        := none
  f2        := none
  fmod      := none
  hasQam8   := Config.hasQam8
  host      := []
  readLog   := []
  freeCount := 0

end Sys2Proof.Machine
end

