-- ==== Sys2Proof/Machine/Flags.lean ====
section
/-! DEFINITION. The status flags: `STATUS` (spec 10_state.md R17), the cause codes (60_exceptions.md
R151) and the entries of `EFLAGS` (R21). -/

namespace Sys2Proof.Machine

/-- `CAUSE` codes (R151). -/
def Cause.code : Cause → BitVec 8
  | .illegalCommand => 0x01#8
  | .kindMismatch => 0x02#8
  | .paramUnset => 0x03#8
  | .manOddLength => 0x10#8
  | .hdrLenExceeds => 0x20#8
  | .hdrLenTooSmall => 0x21#8
  | .notByteMultiple => 0x22#8
  | .noOpenFlag => 0x23#8
  | .noCloseFlag => 0x24#8
  | .noPadHeader => 0x25#8
  | .padExceedsBody => 0x26#8
  | .lenOverflow => 0x27#8
  | .qamIndex => 0x30#8
  | .checkTooShort => 0x40#8
  | .fillExceedsBody => 0x41#8

/-- `STATUS.FAULT`, bit 0. -/
def State.faultBit (s : State) : Bool := s.status.getLsbD 0

/-- `STATUS.ERR`, bit 1. -/
def State.errBit (s : State) : Bool := s.status.getLsbD 1

/-- `STATUS.COR`, bit 2. -/
def State.corBit (s : State) : Bool := s.status.getLsbD 2

/-- `STATUS.SF`, bit 3. -/
def State.sfBit (s : State) : Bool := s.status.getLsbD 3

/-- `STATUS` after a command that ends without fault: bits 2 to 0 are rewritten, the others stay (R17). -/
def statusDone (old : BitVec 8) (err cor : Bool) : BitVec 8 :=
  (old &&& 0xF8#8) ||| (if err then 0x02#8 else 0#8) ||| (if cor then 0x04#8 else 0#8)

/-- `STATUS` after a command that faults: `FAULT` and `SF` set, `ERR` and `COR` clear (R152). -/
def statusFault (old : BitVec 8) : BitVec 8 := (old &&& 0xF8#8) ||| 0x09#8

/-- An `EFLAGS` entry: bit 0 is `err`, bit 1 is `cor` (R21). -/
def eflag (err cor : Bool) : BitVec 2 :=
  (if err then 1#2 else 0#2) ||| (if cor then 2#2 else 0#2)

/-- The code of a kind in `KIND` (R12). -/
def kindCode : Kind → BitVec 2
  | .bits => 0#2
  | .syms => 1#2
  | .frames => 2#2

/-- The kind a `KIND` code names; 3 is reserved (R12). -/
def kindOf (k : BitVec 2) : Option Kind :=
  match k.toNat with
  | 0 => some .bits
  | 1 => some .syms
  | 2 => some .frames
  | _ => none

/-- The kind of the working buffer (R12). -/
def Buf.kind : Buf → Kind
  | .bits _ => .bits
  | .syms _ => .syms
  | .frames _ => .frames

end Sys2Proof.Machine
end

