-- ==== Sys2Proof/Machine/Ops.lean ====
section
/-! DEFINITION. How a command ends: without fault (spec 10_state.md R17 to R19, 40_line_codec.md R60)
or by fault entry (60_exceptions.md R152). There is no return operation: nothing is saved and nothing
is restored (R153). -/

namespace Sys2Proof.Machine

/-- Taking a fault (R152): exactly these four registers are written. -/
def State.enterFault (s : State) (r : Raise) : State :=
  { s with
    status := statusFault s.status
    cause := r.cause.code
    finfo := r.finfo
    fpos := r.fpos }

/-- The status registers of a command that ends without fault (R17, R18, R19). -/
def State.complete (s : State) (err cor : Bool) : State :=
  { s with
    status := statusDone s.status err cor
    cause := 0#8
    finfo := 0
    fpos := 0 }

/-- A command that ends without fault, leaves `b` in `BUF` and touches nothing else (R60). -/
def State.finish (s : State) (b : Buf) : State := { s.complete false false with buf := b }

/-- The outcome of a command from what its pseudocode computed: all writes happen together, and a
`raise` discards every computed value (00_scope.md section 5.2, R152). -/
def State.settle (s : State) : Except Raise State → Host.Outcome State Fault Refusal
  | .ok t => .next t
  | .error r => .next (s.enterFault r)

/-- The next state of an outcome, where it has one. -/
def nextState? : Host.Outcome State Fault Refusal → Option State
  | .next t => some t
  | .fault _ => none
  | .refused _ => none

end Sys2Proof.Machine
end

