-- ==== Sys2Proof/Machine/Operands.lean ====
section
/-! DEFINITION. The operand forms: every command reads `BUF` as one kind and faults with
`KindMismatch` on another (spec 30_encoding.md R46, R54); commands on frames work frame by frame in
index order (42_parity_crc.md R100); `MOD` reads parameter registers (44_modulator.md R133). -/

namespace Sys2Proof.Machine

/-- `KindMismatch` (R54, R151). -/
def kindMismatch : Raise := ⟨.kindMismatch, 0, 0⟩

/-- `IllegalCommand` (R53, R151). -/
def illegalCommand : Raise := ⟨.illegalCommand, 0, 0⟩

/-- A command whose input kind is BITS. -/
def onBits (s : State) (g : BitSeq → Except Raise State) : Host.Outcome State Fault Refusal :=
  s.settle (match s.buf with
    | .bits b => g b
    | .syms _ => .error kindMismatch
    | .frames _ => .error kindMismatch)

/-- A command whose input kind is SYMS. -/
def onSyms (s : State) (g : List SymCode → Except Raise State) : Host.Outcome State Fault Refusal :=
  s.settle (match s.buf with
    | .bits _ => .error kindMismatch
    | .syms y => g y
    | .frames _ => .error kindMismatch)

/-- A command whose input kind is FRAMES. -/
def onFrames (s : State) (g : List Frame → Except Raise State) : Host.Outcome State Fault Refusal :=
  s.settle (match s.buf with
    | .bits _ => .error kindMismatch
    | .syms _ => .error kindMismatch
    | .frames f => g f)

/-- Frame by frame, index `k` first; the first `raise` abandons the command (R100, R154). -/
def forFrames {α : Type} (g : Nat → Frame → Except Raise α) : Nat → List Frame → Except Raise (List α)
  | _, [] => .ok []
  | k, f :: fs =>
    match g k f with
    | .error r => .error r
    | .ok a =>
      match forFrames g (k + 1) fs with
      | .error r => .error r
      | .ok as => .ok (a :: as)

/-- The receive-side pre-step: strip the declared padding (R100). -/
def stripPad (k : Nat) (f : Frame) : Except Raise BitSeq :=
  if f.body.length < f.pad.toNat then .error ⟨.padExceedsBody, k, 0⟩
  else .ok (slice f.body 0 (f.body.length - f.pad.toNat))

/-- A parameter register's value (R22). -/
def State.param (s : State) : Param → Option Number
  | .amp => s.amp
  | .f => s.f
  | .f1 => s.f1
  | .f2 => s.f2
  | .fmod => s.fmod

/-- The register number of a parameter register (R28). -/
def Param.number : Param → Nat
  | .amp => 8
  | .f => 9
  | .f1 => 10
  | .f2 => 11
  | .fmod => 12

/-- A parameter a `MOD` needs: its value, or `ParamUnset` with the register's number (R133). -/
def State.needParam (s : State) (p : Param) : Except Raise Number :=
  match s.param p with
  | some v => .ok v
  | none => .error ⟨.paramUnset, 0, p.number⟩

end Sys2Proof.Machine
end

