-- ==== Sys2Proof/Machine/Check.lean ====
section
/-! DEFINITION. What the three error-control schemes share (spec 42_parity_crc.md R100): how
`PROTECT` and `CHECK` leave the state. -/

namespace Sys2Proof.Machine

/-- What checking one frame gives: the cleaned payload and the two flags (R100). -/
structure Checked where
  clean : BitSeq
  err   : Bool
  cor   : Bool
deriving DecidableEq, Repr

/-- `PROTECT` frame by frame: the padding field is ignored and written 0 (R100). -/
def protectFrames (g : BitSeq → BitSeq) (f : List Frame) : List Frame :=
  f.map fun x => ⟨g x.body, 0#_⟩

/-- The end of a `CHECK` without fault (R100): cleaned frames, one `EFLAGS` entry per frame, and the
or of the flags over frames in `STATUS`. -/
def State.finishCheck (s : State) (rs : List Checked) : State :=
  { s.complete (rs.any Checked.err) (rs.any Checked.cor) with
    buf := .frames (rs.map fun r => ⟨r.clean, 0#_⟩)
    eflags := rs.map fun r => eflag r.err r.cor }

/-- The value of the last frame, or the old one when there is no frame (R23, R24). -/
def lastOr {α : Type} (old : α) (l : List α) : α := l.getLast?.getD old

end Sys2Proof.Machine
end

