-- ==== Sys2Proof/Machine/Crc.lean ====
section
/-! DEFINITION. CRC-32 by bit-serial division, the fill, and its record (spec 42_parity_crc.md
section 3). -/

namespace Sys2Proof.Machine

/-- One bit of the division: shift left, the new bit at the bottom, subtract the generator if a 1
was shifted out (R105). -/
def crcStep (rem : BitVec Config.crcBits) (b : Bit) : BitVec Config.crcBits :=
  let shifted := (rem <<< 1) ||| (if b then 1#Config.crcBits else 0#Config.crcBits)
  if rem.msb then shifted ^^^ Config.crcPoly else shifted

/-- `polymod(s)`: the remainder of `s(x)` by the generator (R105). -/
def polymod (s : BitSeq) : BitVec Config.crcBits := s.foldl crcStep 0#Config.crcBits

/-- The number of fill bits for a payload of `n` bits (R106). -/
def fillLen (n : Nat) : Nat := if n < Config.crcMinBits then Config.crcMinBits - n else 0

/-- The filler `0,1,0,1,…` (R106). -/
def filler (n : Nat) : BitSeq := (List.range n).map fun j => decide (j % 2 = 1)

/-- The payload with its filler (R106). -/
def filled (m : BitSeq) : BitSeq := m ++ filler (fillLen m.length)

/-- The CRC of a payload: the remainder of the filled payload times `x^32` (R107). -/
def crcOf (m : BitSeq) : BitVec Config.crcBits := polymod (filled m ++ rep false Config.crcBits)

/-- The protected payload (R107). -/
def protectCrc (m : BitSeq) : BitSeq := filled m ++ bitsN Config.crcBits (crcOf m).toNat

/-- `FILLTAB[k]`, 0 where there is no entry (R20). -/
def fillAt (t : List Byte) (k : Nat) : Nat := (t.getD k 0#8).toNat

/-- Check of one frame, after the padding pre-step, and its residue (R108). -/
def checkCrcFrame (t : List Byte) (k : Nat) (f : Frame) : Except Raise (Checked × BitVec Config.crcBits) :=
  match stripPad k f with
  | .error r => .error r
  | .ok x =>
    if x.length < Config.crcBits then .error ⟨.checkTooShort, k, 0⟩
    else
      let res := polymod x
      let y := slice x 0 (x.length - Config.crcBits)
      if y.length < fillAt t k then .error ⟨.fillExceedsBody, k, 0⟩
      else .ok ({ clean := slice y 0 (y.length - fillAt t k), err := decide (res ≠ 0#Config.crcBits), cor := false }, res)

/-- `PROTECT.CRC` (R107). -/
def execProtectCrc (s : State) : Host.Outcome State Fault Refusal :=
  onFrames s fun f =>
    .ok { s.finish (.frames (protectFrames protectCrc f)) with
          filltab := f.map fun x => BitVec.ofNat 8 (fillLen x.body.length)
          crcrem := lastOr s.crcrem (f.map fun x => crcOf x.body) }

/-- `CHECK.CRC` (R108). -/
def execCheckCrc (s : State) : Host.Outcome State Fault Refusal :=
  onFrames s fun f =>
    match forFrames (checkCrcFrame s.filltab) 0 f with
    | .error r => .error r
    | .ok rs => .ok { s.finishCheck (rs.map Prod.fst) with crcrem := lastOr s.crcrem (rs.map Prod.snd) }

end Sys2Proof.Machine
end

