-- ==== Sys2Proof/Machine/Framer.lean ====
section
/-! DEFINITION. The framer and deframer (spec 41_framer.md): `SPLIT`, `WRAP`, `DEFRAME`, `JOIN`. -/

namespace Sys2Proof.Machine

/-- `chunk(b, M)`: pieces of `M` bytes, the last one shorter if need be (R76). -/
def chunk (b : BitSeq) (M : Nat) : List BitSeq := pieces (8 * M) b

/-- Chunks as frame records with no declared padding (R77). -/
def splitFrames (b : BitSeq) (M : Nat) : List Frame := (chunk b M).map fun c => ⟨c, 0#_⟩

/-- `SPLIT.CC` (R77). -/
def execSplitCc (s : State) : Host.Outcome State Fault Refusal :=
  onBits s fun b => .ok (s.finish (.frames (splitFrames b Config.ccMaxDataBytes)))

/-- `SPLIT.BYTE` (R78). -/
def execSplitByte (s : State) : Host.Outcome State Fault Refusal :=
  onBits s fun b => .ok (s.finish (.frames (splitFrames b Config.stuffMaxDataBytes)))

/-- `SPLIT.BIT` (R79). -/
def execSplitBit (s : State) : Host.Outcome State Fault Refusal :=
  onBits s fun b => .ok (s.finish (.frames (splitFrames b Config.stuffMaxDataBytes)))

/-- A body brought up to a whole number of bytes with 0 bits (R82, R84, R95). -/
def padded (x : BitSeq) : BitSeq := x ++ rep false (ceil8 x.length)

/-- One frame of the character-count format (R81, R82); `f.pad` is ignored (R96). -/
def wrapCcFrame (k : Nat) (f : Frame) : Except Raise BitSeq :=
  let pad := ceil8 f.body.length
  let K := (f.body.length + pad) / 8
  let len := Config.ccHeaderBytes + K
  if 2 ^ Config.lenFieldBits ≤ len then .error ⟨.lenOverflow, k, 0⟩
  else .ok (bitsN Config.lenFieldBits len ++ bitsN Config.padFieldBits pad ++ padded f.body)

/-- One frame of the byte-stuffing format (R83, R84). -/
def wrapByteFrame (f : Frame) : BitSeq :=
  Config.flag ++ bitsN Config.padFieldBits (ceil8 f.body.length) ++ padded f.body ++ Config.flag

/-- One frame of the bit-stuffing format without a padding header (R85, R86). -/
def wrapBitFrame (f : Frame) : BitSeq := Config.flag ++ f.body ++ Config.flag

/-- One frame of the bit-stuffing format with the padding header 0 (R85, R87). -/
def wrapBithFrame (f : Frame) : BitSeq :=
  Config.flag ++ bitsN Config.padFieldBits 0 ++ f.body ++ Config.flag

/-- `WRAP.CC` (R82). -/
def execWrapCc (s : State) : Host.Outcome State Fault Refusal :=
  onFrames s fun f =>
    match forFrames wrapCcFrame 0 f with
    | .error r => .error r
    | .ok ws => .ok (s.finish (.bits ws.flatten))

/-- `WRAP.BYTE` (R84). -/
def execWrapByte (s : State) : Host.Outcome State Fault Refusal :=
  onFrames s fun f => .ok (s.finish (.bits (f.flatMap wrapByteFrame)))

/-- `WRAP.BIT` (R86). -/
def execWrapBit (s : State) : Host.Outcome State Fault Refusal :=
  onFrames s fun f => .ok (s.finish (.bits (f.flatMap wrapBitFrame)))

/-- `WRAP.BITH` (R87). -/
def execWrapBith (s : State) : Host.Outcome State Fault Refusal :=
  onFrames s fun f => .ok (s.finish (.bits (f.flatMap wrapBithFrame)))

/-- Whether `FLAG` stands at index `q` of `v` (R80). -/
def flagAt (v : BitSeq) (q : Nat) : Bool := decide (slice v q (q + Config.flagBits) = Config.flag)

/-- The smallest of `q, q + stride, …` at which a whole `FLAG` stands in `v` (R89, R90). -/
def findFlag (v : BitSeq) (stride : Nat) : Nat → Nat → Option Nat
  | 0, _ => none
  | fuel + 1, q =>
    if v.length < q + Config.flagBits then none
    else if flagAt v q then some q
    else findFlag v stride fuel (q + stride)

/-- The loop of every `DEFRAME`: `one k p` reads frame `k` at bit index `p` and says where the next
frame starts; the loop ends at index `n` (R88 to R91). -/
def frameLoop (one : Nat → Nat → Except Raise (Frame × Nat)) (n : Nat) :
    Nat → Nat → Nat → Except Raise (List Frame)
  | 0, _, _ => .ok []
  | fuel + 1, k, p =>
    if p < n then
      match one k p with
      | .error r => .error r
      | .ok (f, q) =>
        match frameLoop one n fuel (k + 1) q with
        | .error r => .error r
        | .ok fs => .ok (f :: fs)
    else .ok []

/-- A record, if its padding count can be true of its body (R88, R89, R91). -/
def recordOf (k p : Nat) (body : BitSeq) (pad next : Nat) : Except Raise (Frame × Nat) :=
  if body.length < pad then .error ⟨.padExceedsBody, k, p⟩
  else .ok (⟨body, BitVec.ofNat Config.padFieldBits pad⟩, next)

/-- Frame `k` of the character-count format at bit index `p = 8*i` (R88). -/
def deframeCcOne (v : BitSeq) (k p : Nat) : Except Raise (Frame × Nat) :=
  if v.length < p + Config.ccHeaderBits then .error ⟨.hdrLenExceeds, k, p⟩
  else
    let len := field v p Config.lenFieldBits
    let pad := field v (p + Config.lenFieldBits) Config.padFieldBits
    if len < Config.ccHeaderBytes then .error ⟨.hdrLenTooSmall, k, p⟩
    else if v.length < p + 8 * len then .error ⟨.hdrLenExceeds, k, p⟩
    else recordOf k p (slice v (p + Config.ccHeaderBits) (p + 8 * len)) pad (p + 8 * len)

/-- Frame `k` of the byte-stuffing format at bit index `p = 8*i`; the closing flag is looked for at
byte positions only (R89). -/
def deframeByteOne (v : BitSeq) (k p : Nat) : Except Raise (Frame × Nat) :=
  if !flagAt v p then .error ⟨.noOpenFlag, k, p⟩
  else
    let start := p + Config.flagBits
    match findFlag v 8 v.length start with
    | none => .error ⟨.noCloseFlag, k, p⟩
    | some q =>
      if q < start + Config.padFieldBits then .error ⟨.noPadHeader, k, p⟩
      else recordOf k p (slice v (start + Config.padFieldBits) q) (field v start Config.padFieldBits)
        (q + Config.flagBits)

/-- Frame `k` of the bit-stuffing format at bit index `p`: what its two flags enclose, and where the
next frame starts (R90). -/
def deframeContent (v : BitSeq) (k p : Nat) : Except Raise (BitSeq × Nat) :=
  if v.length < p + Config.flagBits ∨ !flagAt v p then .error ⟨.noOpenFlag, k, p⟩
  else
    let start := p + Config.flagBits
    match findFlag v 1 v.length start with
    | none => .error ⟨.noCloseFlag, k, p⟩
    | some q => .ok (slice v start q, q + Config.flagBits)

/-- Without a padding header (R90). -/
def deframeBitOne (v : BitSeq) (k p : Nat) : Except Raise (Frame × Nat) :=
  match deframeContent v k p with
  | .error r => .error r
  | .ok (content, next) => .ok (⟨content, 0#_⟩, next)

/-- With a padding header (R91). -/
def deframeBithOne (v : BitSeq) (k p : Nat) : Except Raise (Frame × Nat) :=
  match deframeContent v k p with
  | .error r => .error r
  | .ok (content, next) =>
    if content.length < Config.padFieldBits then .error ⟨.noPadHeader, k, p⟩
    else recordOf k p (slice content Config.padFieldBits content.length)
      (field content 0 Config.padFieldBits) next

/-- The frames of a stream that must be a whole number of bytes (R88, R89). -/
def deframeBytes (one : Nat → Nat → Except Raise (Frame × Nat)) (v : BitSeq) :
    Except Raise (List Frame) :=
  if v.length % 8 ≠ 0 then .error ⟨.notByteMultiple, 0, 8 * (v.length / 8)⟩
  else frameLoop one v.length v.length 0 0

/-- The frames of a character-count stream (R88). -/
def deframeCc (v : BitSeq) : Except Raise (List Frame) := deframeBytes (deframeCcOne v) v

/-- The frames of a byte-stuffing stream (R89). -/
def deframeByte (v : BitSeq) : Except Raise (List Frame) := deframeBytes (deframeByteOne v) v

/-- The frames of a bit-stuffing stream (R90). -/
def deframeBit (v : BitSeq) : Except Raise (List Frame) :=
  frameLoop (deframeBitOne v) v.length v.length 0 0

/-- The frames of a bit-stuffing stream with padding headers (R91). -/
def deframeBith (v : BitSeq) : Except Raise (List Frame) :=
  frameLoop (deframeBithOne v) v.length v.length 0 0

/-- A `DEFRAME` leaves the frames it found in `BUF`. -/
def State.finishDeframe (s : State) : Except Raise (List Frame) → Except Raise State
  | .error r => .error r
  | .ok f => .ok (s.finish (.frames f))

/-- `DEFRAME.CC` (R88). -/
def execDeframeCc (s : State) : Host.Outcome State Fault Refusal :=
  onBits s fun v => s.finishDeframe (deframeCc v)

/-- `DEFRAME.BYTE` (R89). -/
def execDeframeByte (s : State) : Host.Outcome State Fault Refusal :=
  onBits s fun v => s.finishDeframe (deframeByte v)

/-- `DEFRAME.BIT` (R90). -/
def execDeframeBit (s : State) : Host.Outcome State Fault Refusal :=
  onBits s fun v => s.finishDeframe (deframeBit v)

/-- `DEFRAME.BITH` (R91). -/
def execDeframeBith (s : State) : Host.Outcome State Fault Refusal :=
  onBits s fun v => s.finishDeframe (deframeBith v)

/-- `JOIN` (R93): the bodies in order; the padding counts are ignored. -/
def execJoin (s : State) : Host.Outcome State Fault Refusal :=
  onFrames s fun f => .ok (s.finish (.bits (f.flatMap Frame.body)))

end Sys2Proof.Machine
end

