-- ==== Sys2Proof/Machine/Hamming.lean ====
section
/-! DEFINITION. The Hamming single-error-correcting code (spec 43_hamming.md). Positions are numbered
from 1: position `p` is index `p - 1` (R120). -/

namespace Sys2Proof.Machine

/-- `r(m)`: the smallest `r` with `2^r ≥ m + r + 1` (R120); it is at most `m + 1`. -/
def hamR (m : Nat) : Nat := ((List.range (m + 2)).find? fun r => decide (m + r + 1 ≤ 2 ^ r)).getD 0

/-- The data bits at the positions from `p` on that are no power of two, 0 at the others, for `n`
positions (R121). -/
def hamPlace : Nat → Nat → BitSeq → BitSeq
  | 0, _, _ => []
  | n + 1, p, m =>
    if isPow2 p then false :: hamPlace n (p + 1) m
    else
      match m with
      | [] => false :: hamPlace n (p + 1) []
      | b :: m' => b :: hamPlace n (p + 1) m'

/-- The xor of `c[p]` over all positions `p` with `bit(p, i) = 1` (R121, R122). -/
def groupXor (c : BitSeq) (i : Nat) : Bit :=
  xorAll (((c.zipIdx 1).filter fun x => x.2.testBit i).map Prod.fst)

/-- The parity bits at positions `2^0` to `2^(r-1)`, each the xor of its group (R121). The groups are
taken over the placed data: a parity position is in its own group only, and is 0 there. -/
def hamParities (c : BitSeq) (r : Nat) : BitSeq :=
  (List.range r).foldl (fun d i => d.set (2 ^ i - 1) (groupXor c i)) c

/-- The codeword of a payload (R121). -/
def protectHam (m : BitSeq) : BitSeq :=
  hamParities (hamPlace (m.length + hamR m.length) 1 m) (hamR m.length)

/-- The syndrome of a received word: bit `i` is the parity of group `i` (R122). -/
def syndrome (c : BitSeq) : Nat :=
  ((List.range (bitlen c.length)).map fun i => (groupXor c i).toNat * 2 ^ i).sum

/-- The bits at the positions that are no power of two (R122). -/
def hamData (c : BitSeq) : BitSeq := ((c.zipIdx 1).filter fun x => !isPow2 x.2).map Prod.fst

/-- Check of one received word, and its syndrome (R122). -/
def checkHam (c : BitSeq) : Checked × Nat :=
  let syn := syndrome c
  if syn = 0 then ({ clean := hamData c, err := false, cor := false }, syn)
  else if syn ≤ c.length then
    ({ clean := hamData (c.modify (syn - 1) not), err := false, cor := true }, syn)
  else ({ clean := hamData c, err := true, cor := false }, syn)

/-- Check of one frame, after the padding pre-step (R122). -/
def checkHamFrame (k : Nat) (f : Frame) : Except Raise (Checked × Nat) :=
  match stripPad k f with
  | .error r => .error r
  | .ok x => .ok (checkHam x)

/-- `PROTECT.HAM` (R121). -/
def execProtectHam (s : State) : Host.Outcome State Fault Refusal :=
  onFrames s fun f => .ok (s.finish (.frames (protectFrames protectHam f)))

/-- `CHECK.HAM` (R122). -/
def execCheckHam (s : State) : Host.Outcome State Fault Refusal :=
  onFrames s fun f =>
    match forFrames checkHamFrame 0 f with
    | .error r => .error r
    | .ok rs => .ok { s.finishCheck (rs.map Prod.fst) with syn := lastOr s.syn (rs.map Prod.snd) }

end Sys2Proof.Machine
end

