-- ==== Sys2Proof/Machine/LineCode.lean ====
section
/-! DEFINITION. The line coder (spec 40_line_codec.md): `LENC`, `LDEC`, `LMAP`. -/

namespace Sys2Proof.Machine

/-- `+1` and `-1` as symbol codes (R50). -/
def symPos : SymCode := 1#2
def symNeg : SymCode := 3#2
def symZero : SymCode := 0#2

/-- NRZ: 1 is `+1`, 0 is `-1` (R61). -/
def lencNrz (b : BitSeq) : List SymCode := b.map fun x => if x then symPos else symNeg

/-- Manchester: 1 is `1,0`, 0 is `0,1` (R62). -/
def lencMan (b : BitSeq) : BitSeq := b.flatMap fun x => if x then [true, false] else [false, true]

/-- AMI from polarity `pol`: 0 is level 0, every 1 takes the polarity and flips it (R63). -/
def lencAmi (pol : SymCode) : BitSeq → List SymCode
  | [] => []
  | true :: b => pol :: lencAmi (-pol) b
  | false :: b => symZero :: lencAmi pol b

/-- 1 iff the symbol is `+1` (R64). -/
def ldecNrz (y : List SymCode) : BitSeq := y.map fun c => decide (c.toInt = 1)

/-- Pair by pair from index 0: `0,1` is 0, any other pair is 1 (R65). The odd-length case is checked
before. -/
def ldecMan : BitSeq → BitSeq
  | a :: b :: y => (!(!a && b)) :: ldecMan y
  | [_] => []
  | [] => []

/-- 1 iff the symbol is nonzero (R66). -/
def ldecAmi (y : List SymCode) : BitSeq := y.map fun c => decide (c.toInt ≠ 0)

/-- 1 iff the symbol is `+1` (R67). -/
def lmapNrz (y : List SymCode) : BitSeq := y.map fun c => decide (c.toInt = 1)

/-- 1 iff the symbol is nonzero (R69). -/
def lmapAmi (y : List SymCode) : BitSeq := y.map fun c => decide (c.toInt ≠ 0)

/-- `LENC.NRZ` (R61). -/
def execLencNrz (s : State) : Host.Outcome State Fault Refusal :=
  onBits s fun b => .ok (s.finish (.syms (lencNrz b)))

/-- `LENC.MAN` (R62). -/
def execLencMan (s : State) : Host.Outcome State Fault Refusal :=
  onBits s fun b => .ok (s.finish (.bits (lencMan b)))

/-- `LENC.AMI` (R63): the polarity starts at `+1` in every command (R25). -/
def execLencAmi (s : State) : Host.Outcome State Fault Refusal :=
  onBits s fun b => .ok (s.finish (.syms (lencAmi symPos b)))

/-- `LDEC.NRZ` (R64). -/
def execLdecNrz (s : State) : Host.Outcome State Fault Refusal :=
  onSyms s fun y => .ok (s.finish (.bits (ldecNrz y)))

/-- `LDEC.MAN` (R65). -/
def execLdecMan (s : State) : Host.Outcome State Fault Refusal :=
  onBits s fun y =>
    if y.length % 2 = 1 then .error ⟨.manOddLength, 0, y.length - 1⟩
    else .ok (s.finish (.bits (ldecMan y)))

/-- `LDEC.AMI` (R66). -/
def execLdecAmi (s : State) : Host.Outcome State Fault Refusal :=
  onSyms s fun y => .ok (s.finish (.bits (ldecAmi y)))

/-- `LMAP.NRZ` (R67). -/
def execLmapNrz (s : State) : Host.Outcome State Fault Refusal :=
  onSyms s fun y => .ok (s.finish (.bits (lmapNrz y)))

/-- `LMAP.MAN` (R68): identity. -/
def execLmapMan (s : State) : Host.Outcome State Fault Refusal :=
  onBits s fun y => .ok (s.finish (.bits y))

/-- `LMAP.AMI` (R69). -/
def execLmapAmi (s : State) : Host.Outcome State Fault Refusal :=
  onSyms s fun y => .ok (s.finish (.bits (lmapAmi y)))

end Sys2Proof.Machine
end

