-- ==== Sys2Proof/Machine/Modulator.lean ====
section
/-! DEFINITION. The modulator (spec 44_modulator.md): `MOD.ASK`, `MOD.FSK` and the optional
`MOD.QAM8`. -/

namespace Sys2Proof.Machine

/-- The samples of one bit or symbol slot, `t = 0 .. 99`; `t` restarts in every slot (R131). -/
def slot {α : Type} (g : Nat → α) : List α := (List.range Config.samplesPerBit).map g

/-- The samples of the sine `amp * sin(2π * freq * t / 100)` (R131, R132). -/
def sineSlot (amp freq : Number) : List Sample := slot (.sine amp freq)

/-- ASK: the sine for a 1, zero samples for a 0 (R131). -/
def modAsk (amp freq : Number) (b : BitSeq) : List Sample :=
  b.flatMap fun x => if x then sineSlot amp freq else slot fun _ => .zero

/-- FSK: `F1` for a 1, `F2` for a 0 (R132). -/
def modFsk (amp freq1 freq2 : Number) (b : BitSeq) : List Sample :=
  b.flatMap fun x => sineSlot amp (if x then freq1 else freq2)

/-- `QAM_TABLE` (R136): the source gives the entries of `(1,1,1)` and `(0,0,0)`; the others are free. -/
def qamTable : BitSeq → QamPoint
  | [true, true, true] => ⟨.pos1, .pos3⟩
  | [false, false, false] => ⟨.neg1, .neg1⟩
  | key => Config.qamFree key

/-- The bits padded with zero bits to whole symbols (R136). -/
def qamPadded (b : BitSeq) : BitSeq :=
  b ++ rep false ((Config.qamBitsPerSymbol - b.length % Config.qamBitsPerSymbol) % Config.qamBitsPerSymbol)

/-- The amplitudes of the symbols, group by group from index 0 (R136). -/
def qamPoints (b : BitSeq) : List QamPoint :=
  (pieces Config.qamBitsPerSymbol (qamPadded b)).map qamTable

/-- The samples of the symbols (R137). -/
def qamSamples (freq : Number) (a : List QamPoint) : List Sample :=
  a.flatMap fun x => slot (.phasor x freq)

/-- The time axis `s + t/100` of `n` symbols (R138). -/
def qamTime (n : Nat) : List Rat :=
  (List.range n).flatMap fun k => slot fun t => (k : Rat) + (t : Rat) / (Config.samplesPerBit : Rat)

/-- A `MOD` that ends without fault leaves `BUF` unchanged and `l` in `SIG` (R134). -/
def State.finishMod (s : State) (l : List Sample) : State := { s.complete false false with sig := l }

/-- `MOD.ASK` (R131); the registers are needed in the order of their numbers (R133). -/
def execModAsk (s : State) : Host.Outcome State Fault Refusal :=
  onBits s fun b =>
    match s.needParam .amp with
    | .error r => .error r
    | .ok amp =>
      match s.needParam .f with
      | .error r => .error r
      | .ok freq => .ok (s.finishMod (modAsk amp freq b))

/-- `MOD.FSK` (R132). -/
def execModFsk (s : State) : Host.Outcome State Fault Refusal :=
  onBits s fun b =>
    match s.needParam .amp with
    | .error r => .error r
    | .ok amp =>
      match s.needParam .f1 with
      | .error r => .error r
      | .ok freq1 =>
        match s.needParam .f2 with
        | .error r => .error r
        | .ok freq2 => .ok (s.finishMod (modFsk amp freq1 freq2 b))

/-- `MOD.QAM8` (R136 to R138); reserved when `HAS_QAM8 = false` (R56), and `IllegalCommand` comes
before every other cause (R154). -/
def execModQam8 (s : State) : Host.Outcome State Fault Refusal :=
  if s.hasQam8 then
    onBits s fun b =>
      match s.needParam .fmod with
      | .error r => .error r
      | .ok freq =>
        let a := qamPoints b
        .ok { s.finishMod (qamSamples freq a) with sigNsym := a.length, sigTime := qamTime a.length }
  else s.settle (.error illegalCommand)

end Sys2Proof.Machine
end

