-- ==== Sys2Proof/Machine/Parity.lean ====
section
/-! DEFINITION. Even parity (spec 42_parity_crc.md section 2). -/

namespace Sys2Proof.Machine

/-- The payload with a bit that makes the number of 1s even (R101). -/
def protectPar (m : BitSeq) : BitSeq := m ++ [xorAll m]

/-- Check of one frame, after the padding pre-step (R102): `sum` counts the 1s before the last bit. -/
def checkParFrame (k : Nat) (f : Frame) : Except Raise Checked :=
  match stripPad k f with
  | .error r => .error r
  | .ok x =>
    if x.length = 0 then .error ⟨.checkTooShort, k, 0⟩
    else
      let rest := slice x 0 (x.length - 1)
      let sum := rest.count true
      let last := (x.getD (x.length - 1) false).toNat
      .ok { clean := rest, err := decide ((sum + last) % 2 = 1), cor := false }

/-- `PROTECT.PAR` (R101). -/
def execProtectPar (s : State) : Host.Outcome State Fault Refusal :=
  onFrames s fun f => .ok (s.finish (.frames (protectFrames protectPar f)))

/-- `CHECK.PAR` (R102). -/
def execCheckPar (s : State) : Host.Outcome State Fault Refusal :=
  onFrames s fun f =>
    match forFrames checkParFrame 0 f with
    | .error r => .error r
    | .ok rs => .ok (s.finishCheck rs)

end Sys2Proof.Machine
end

