-- ==== Sys2Proof/Machine/Dispatch.lean ====
section
/-! DEFINITION. One arm per command, in the order of opcode_table.json. -/

namespace Sys2Proof.Machine

/-- What a command does. -/
def exec (i : Instr) (s : State) : Host.Outcome State Fault Refusal :=
  match i with
  | .lencNrz => Sys2Proof.Machine.execLencNrz s
  | .lencMan => Sys2Proof.Machine.execLencMan s
  | .lencAmi => Sys2Proof.Machine.execLencAmi s
  | .ldecNrz => Sys2Proof.Machine.execLdecNrz s
  | .ldecMan => Sys2Proof.Machine.execLdecMan s
  | .ldecAmi => Sys2Proof.Machine.execLdecAmi s
  | .lmapNrz => Sys2Proof.Machine.execLmapNrz s
  | .lmapMan => Sys2Proof.Machine.execLmapMan s
  | .lmapAmi => Sys2Proof.Machine.execLmapAmi s
  | .splitCc => Sys2Proof.Machine.execSplitCc s
  | .splitByte => Sys2Proof.Machine.execSplitByte s
  | .splitBit => Sys2Proof.Machine.execSplitBit s
  | .protectPar => Sys2Proof.Machine.execProtectPar s
  | .protectCrc => Sys2Proof.Machine.execProtectCrc s
  | .protectHam => Sys2Proof.Machine.execProtectHam s
  | .wrapCc => Sys2Proof.Machine.execWrapCc s
  | .wrapByte => Sys2Proof.Machine.execWrapByte s
  | .wrapBit => Sys2Proof.Machine.execWrapBit s
  | .wrapBith => Sys2Proof.Machine.execWrapBith s
  | .deframeCc => Sys2Proof.Machine.execDeframeCc s
  | .deframeByte => Sys2Proof.Machine.execDeframeByte s
  | .deframeBit => Sys2Proof.Machine.execDeframeBit s
  | .deframeBith => Sys2Proof.Machine.execDeframeBith s
  | .checkPar => Sys2Proof.Machine.execCheckPar s
  | .checkCrc => Sys2Proof.Machine.execCheckCrc s
  | .checkHam => Sys2Proof.Machine.execCheckHam s
  | .join => Sys2Proof.Machine.execJoin s
  | .modAsk => Sys2Proof.Machine.execModAsk s
  | .modFsk => Sys2Proof.Machine.execModFsk s
  | .modQam8 => Sys2Proof.Machine.execModQam8 s

end Sys2Proof.Machine
end

