-- ==== Sys2Proof/Machine/Control.lean ====
section
/-! DEFINITION. The host's actions (spec 20_memory.md R40, 10_state.md R26, R28, 30_encoding.md R57,
70_reset_and_hazards.md R170) and issuing a command. -/

namespace Sys2Proof.Machine

/-- The register numbers (R28). -/
def ReadOnlyReg.number : ReadOnlyReg → Nat
  | .status => 1
  | .cause => 2
  | .finfo => 3
  | .fpos => 4
  | .crcrem => 6
  | .syn => 7

/-- The register numbers (R28). -/
def Reg.number : Reg → Nat
  | .cmd => 0
  | .readOnly r => r.number
  | .kind => 5
  | .param p => p.number
  | .reserved i => 13 + i.val

/-- The register with a number; there are sixteen numbers (R28). -/
def regOf (n : Nat) : Option Reg :=
  match n with
  | 0 => some .cmd
  | 1 => some (.readOnly .status)
  | 2 => some (.readOnly .cause)
  | 3 => some (.readOnly .finfo)
  | 4 => some (.readOnly .fpos)
  | 5 => some .kind
  | 6 => some (.readOnly .crcrem)
  | 7 => some (.readOnly .syn)
  | 8 => some (.param .amp)
  | 9 => some (.param .f)
  | 10 => some (.param .f1)
  | 11 => some (.param .f2)
  | 12 => some (.param .fmod)
  | 13 => some (.reserved 0)
  | 14 => some (.reserved 1)
  | 15 => some (.reserved 2)
  | _ => none

/-- A write of `CMD` (R26): a legal word runs its command, a reserved one raises `IllegalCommand`
(R53). -/
def issue (s : State) (w : Byte) : Host.Outcome State Fault Refusal :=
  match decode w with
  | .ok i => exec i s
  | .error _ => s.settle (.error illegalCommand)

/-- Whether the block has a parameter register: `FMOD` exists only when `HAS_QAM8 = true` (R28). -/
def State.hasParam (s : State) (p : Param) : Bool :=
  match p with
  | .amp | .f | .f1 | .f2 => true
  | .fmod => s.hasQam8

/-- A host write of a parameter register makes it written (R22); a write of one that does not exist
is ignored (U20). -/
def State.writeParam (s : State) (p : Param) (v : Number) : State :=
  if s.hasParam p then
    match p with
    | .amp => { s with amp := some v }
    | .f => { s with f := some v }
    | .f1 => { s with f1 := some v }
    | .f2 => { s with f2 := some v }
    | .fmod => { s with fmod := some v }
  else s

/-- What `BUF` holds after a write of `KIND` that changes the kind: the spec gives no value, so it is
free. DESIGN CHOICE, see notes/assumptions/6.md. -/
def freeBuf (k : Kind) (n : Nat) : Buf :=
  match k with
  | .bits => .bits (Config.freeBits n)
  | .syms => .syms (Config.freeSyms n)
  | .frames => .frames (Config.freeFrames n)

/-- A host write of `KIND`: 3 is refused, with no effect (R12); the kind `BUF` has already changes
nothing. -/
def State.writeKind (s : State) (c : BitVec 2) : State :=
  match kindOf c with
  | none => s
  | some k =>
    if s.buf.kind = k then s
    else { s with buf := freeBuf k s.freeCount, freeCount := s.freeCount + 1 }

/-- A host write of a numbered register (R28): read-only and reserved registers ignore it. -/
def hostWrite (s : State) : RegWrite → Host.Outcome State Fault Refusal
  | .cmd w => issue s w
  | .readOnly _ _ => .next s
  | .kind k => .next (s.writeKind k)
  | .param p v => .next (s.writeParam p v)
  | .reserved _ _ => .next s

/-- What a read of a read-only register returns; `STATUS[7:4]` reads as 0 (R17). -/
def State.readOnly (s : State) : ReadOnlyReg → Nat
  | .status => (s.status &&& 0x0F#8).toNat
  | .cause => s.cause.toNat
  | .finfo => s.finfo
  | .fpos => s.fpos
  | .crcrem => s.crcrem.toNat
  | .syn => s.syn

/-- Whether a read of a parameter register returns an unspecified number: it exists and is unwritten
(R28, U6). -/
def State.readsFree (s : State) : ReadPort → Bool
  | .reg (.param p) => s.hasParam p && (s.param p).isNone
  | _ => false

/-- What a read of a parameter register returns: 0 where it does not exist (U20), a free number where
it is unwritten (U6). -/
def State.readParam (s : State) (p : Param) : Number :=
  if s.hasParam p then (s.param p).getD (Config.freeParam s.freeCount) else .rat 0

/-- What a host read returns (R28, R40). -/
def State.readValue (s : State) : ReadPort → ReadValue
  | .reg .cmd => .nat 0
  | .reg (.readOnly r) => .nat (s.readOnly r)
  | .reg .kind => .nat (kindCode s.buf.kind).toNat
  | .reg (.param p) => .num (s.readParam p)
  | .reg (.reserved _) => .nat 0
  | .buf => .buf s.buf
  | .sig => .sig s.sig
  | .sigNsym => .nat s.sigNsym
  | .sigTime => .time s.sigTime
  | .filltab => .filltab s.filltab
  | .eflags => .eflags s.eflags

/-- A host read: the value goes to the host, nothing of the block changes (R35). -/
def State.hostRead (s : State) (p : ReadPort) : State :=
  { s with
    readLog := s.readLog ++ [s.readValue p]
    freeCount := if s.readsFree p then s.freeCount + 1 else s.freeCount }

/-- `flip i` (R57): inverts bit `i` of a BITS buffer; where there is no such bit nothing changes. -/
def State.flip (s : State) (i : Nat) : State :=
  match s.buf with
  | .bits b => { s with buf := .bits (b.modify i not) }
  | .syms _ => s
  | .frames _ => s

/-- The reset event (R170, R171): all of the block's state; what the host holds and the
implementation parameter are not the block's state (R27). -/
def State.resetEvent (s : State) : State :=
  { State.reset with
    hasQam8 := s.hasQam8
    host := s.host
    readLog := s.readLog
    freeCount := s.freeCount }

/-- The host ends its sequence when it reads `STATUS.FAULT = 1` (R143). -/
def State.stopOnFault (s : State) : State := if s.faultBit then { s with host := [] } else s

/-- One action of the host. -/
def hostAct (s : State) : HostAction → Host.Outcome State Fault Refusal
  | .write w => hostWrite s w
  | .read p => .next (s.hostRead p)
  | .loadBuf b => .next { s with buf := b }
  | .setFilltab t => .next { s with filltab := t }
  | .flip i => .next (s.flip i)
  | .reset => .next s.resetEvent
  | .stopOnFault => .next s.stopOnFault

/-- The host's next action is performed; with none, the block is idle, and idle changes nothing
(R161, R171). -/
def hostStep (s : State) : Host.Outcome State Fault Refusal :=
  match s.host with
  | [] => .next s
  | a :: rest => hostAct { s with host := rest } a

end Sys2Proof.Machine
end

