-- ==== Sys2Proof/Machine/Step.lean ====
section
/-! DEFINITION. One step of the machine, and the write of a command word as the host's next action. -/

namespace Sys2Proof.Machine

/-- One step: the host's next action (spec 10_state.md R11, R26). -/
def step (s : State) : Host.Outcome State Fault Refusal := hostStep s

/-- The host's next action is the write of the word `w` to `CMD`: the block fetches nothing (spec
20_memory.md R39), a command comes from the host. Every row of the table is one 8-bit word. -/
def State.withFetchWord (s : State) (_nbits w : Nat) : State :=
  { s with host := .write (.cmd (BitVec.ofNat 8 w)) :: s.host }

end Sys2Proof.Machine
end

