-- ==== Sys2Proof/Machine/Pipeline.lean ====
section
/-! DEFINITION. The pseudo-instructions `TX`, `RX`, `FRAME.x`, `UNFRAME.x` (spec 30_encoding.md R58,
45_pipeline.md R140, R141): the sequences a host issues. They have no encoding of their own. -/

namespace Sys2Proof.Machine

inductive LineScheme
  | nrz
  | man
  | ami
deriving DecidableEq, Repr

inductive FramingScheme
  | cc
  | byte
  | bit
deriving DecidableEq, Repr

inductive ErrorScheme
  | par
  | crc
  | ham
deriving DecidableEq, Repr

inductive ModScheme
  | ask
  | fsk
  | qam8
deriving DecidableEq, Repr

def lencOf : LineScheme → Instr
  | .nrz => .lencNrz
  | .man => .lencMan
  | .ami => .lencAmi

def lmapOf : LineScheme → Instr
  | .nrz => .lmapNrz
  | .man => .lmapMan
  | .ami => .lmapAmi

def splitOf : FramingScheme → Instr
  | .cc => .splitCc
  | .byte => .splitByte
  | .bit => .splitBit

def protectOf : ErrorScheme → Instr
  | .par => .protectPar
  | .crc => .protectCrc
  | .ham => .protectHam

def checkOf : ErrorScheme → Instr
  | .par => .checkPar
  | .crc => .checkCrc
  | .ham => .checkHam

/-- `WRAP.f`, or `WRAP.BITH` when `f = BIT` and `e = CRC` (R48, R140). -/
def wrapOf : FramingScheme → ErrorScheme → Instr
  | .cc, _ => .wrapCc
  | .byte, _ => .wrapByte
  | .bit, .crc => .wrapBith
  | .bit, .par => .wrapBit
  | .bit, .ham => .wrapBit

/-- `DEFRAME.f`, or `DEFRAME.BITH` when `f = BIT` and `e = CRC` (R48, R141). -/
def deframeOf : FramingScheme → ErrorScheme → Instr
  | .cc, _ => .deframeCc
  | .byte, _ => .deframeByte
  | .bit, .crc => .deframeBith
  | .bit, .par => .deframeBit
  | .bit, .ham => .deframeBit

def modOf : ModScheme → Instr
  | .ask => .modAsk
  | .fsk => .modFsk
  | .qam8 => .modQam8

/-- The commands of the transmit sequence before `MOD` (R140, steps 2 to 6). -/
def txCommands (l : LineScheme) (f : FramingScheme) (e : ErrorScheme) : List Instr :=
  [lencOf l, lmapOf l, splitOf f, protectOf e, wrapOf f e]

/-- Line decoding on receive: Manchester only (R141, step 5). -/
def rxLineCommands : LineScheme → List Instr
  | .nrz => []
  | .man => [.ldecMan]
  | .ami => []

/-- The commands of the receive sequence (R141, steps 2 to 5). -/
def rxCommands (l : LineScheme) (f : FramingScheme) (e : ErrorScheme) : List Instr :=
  [deframeOf f e, checkOf e, .join] ++ rxLineCommands l

/-- `FRAME.x`: framing with no error control (R58). -/
def frameCommands : FramingScheme → List Instr
  | .cc => [.splitCc, .wrapCc]
  | .byte => [.splitByte, .wrapByte]
  | .bit => [.splitBit, .wrapBit]

/-- `UNFRAME.x` (R58). -/
def unframeCommands : FramingScheme → List Instr
  | .cc => [.deframeCc, .join]
  | .byte => [.deframeByte, .join]
  | .bit => [.deframeBit, .join]

/-- Commands issued one after the other; the host stops at the first that faults (R140, R143). -/
def runCommands : List Instr → State → Host.Outcome State Fault Refusal
  | [], s => .next s
  | i :: is, s =>
    match exec i s with
    | .next t => if t.faultBit then .next t else runCommands is t
    | .fault r => .fault r
    | .refused r => .refused r

/-- A command as the host's actions: write its word to `CMD`, read `STATUS`, stop on a fault. -/
def commandActions (i : Instr) : List HostAction := [.write (.cmd (encode i)), .stopOnFault]

/-- The `set` lines of step 7 of R140, and its `MOD`. -/
def modActions (m : ModScheme) (params : List (Param × Number)) : List HostAction :=
  params.map (fun x => .write (.param x.1 x.2)) ++ commandActions (modOf m)

/-- Reading or setting `FILLTAB` is part of an exchange only under CRC (R140 step 8, R141 step 1). -/
def onlyCrc (e : ErrorScheme) (a : List HostAction) : List HostAction :=
  match e with
  | .par => []
  | .crc => a
  | .ham => []

/-- `TX l, f, e, m` on the bits `b` (R140), with the parameters the host sets. -/
def txActions (l : LineScheme) (f : FramingScheme) (e : ErrorScheme) (m : ModScheme)
    (params : List (Param × Number)) (b : BitSeq) : List HostAction :=
  [.loadBuf (.bits b)] ++ (txCommands l f e).flatMap commandActions ++ modActions m params
    ++ [.read .buf] ++ onlyCrc e [.read .filltab]

/-- `RX l, f, e` on a received vector (R141), with the `FILLTAB` conveyed from the transmitter. -/
def rxActions (l : LineScheme) (f : FramingScheme) (e : ErrorScheme) (fills : List Byte)
    (v : BitSeq) : List HostAction :=
  [.loadBuf (.bits v)] ++ onlyCrc e [.setFilltab fills]
    ++ (rxCommands l f e).flatMap commandActions ++ [.read .buf, .read .eflags]

end Sys2Proof.Machine
end

