-- ==== Sys2Proof/Safety.lean ====
section
/-! DEFINITION. The terms claims use: the number a sample names, what a run may rely on in every
state (an invariant of the step), and what it means that a command left the data alone. -/

namespace Sys2Proof

open Machine

/-- The real part of a constellation point. -/
def QamRe.toInt : QamRe → Int
  | .neg1 => -1
  | .pos1 => 1

/-- The imaginary part of a constellation point. -/
def QamIm.toInt : QamIm → Int
  | .neg3 => -3
  | .neg1 => -1
  | .pos1 => 1
  | .pos3 => 3

/-- The complex number of a constellation point (R136). -/
noncomputable def QamPoint.value (a : QamPoint) : ℂ := ⟨(a.re.toInt : ℝ), (a.im.toInt : ℝ)⟩

/-- Which real number every name stands for. Claims about numbers hold for every valuation, so they
hold for every real number a host can write. -/
abbrev Valuation := Nat → ℝ

/-- The real number of a register value (R22, R130). -/
noncomputable def Number.value (ν : Valuation) : Number → ℝ
  | .rat q => (q : ℝ)
  | .real name => ν name

/-- The exact number a sample is (R130, R131, R132, R137), as a complex number. -/
noncomputable def Sample.value (ν : Valuation) : Sample → ℂ
  | .zero => 0
  | .sine amp freq t =>
    (amp.value ν * Real.sin (2 * Real.pi * freq.value ν * (t : ℝ) / (Config.samplesPerBit : ℝ)) : ℝ)
  | .phasor a freq t =>
    a.value * Complex.exp
      (Complex.I * (2 * Real.pi * freq.value ν * ((t : ℝ) / (Config.samplesPerBit : ℝ)) : ℝ))

/-- Whether a byte is a cause code of R151. -/
abbrev isCauseCode (c : BitVec 8) : Prop := c = 0#8 ∨ ∃ x : Cause, c = x.code

/-- What holds in every state a run reaches, whatever the host does: the status registers agree with
each other (R17 to R19, R152, R162), the summary flags are backed by `EFLAGS` (R17, R100), an
`EFLAGS` entry is never both `err` and `cor` (R122), and the signal and its companions have the
lengths the modulator gives them (R131, R138). -/
structure StatusInv (s : State) : Prop where
  reservedZero : s.status &&& 0xF0#8 = 0#8
  faultSticky  : s.faultBit = true → s.sfBit = true
  faultAlone   : s.faultBit = true → s.errBit = false ∧ s.corBit = false
  causeFault   : s.cause = 0#8 ↔ s.faultBit = false
  causeKnown   : isCauseCode s.cause
  quietInfo    : s.faultBit = false → s.finfo = 0 ∧ s.fpos = 0
  errBacked    : s.errBit = true → ∃ e ∈ s.eflags, e.getLsbD 0 = true
  corBacked    : s.corBit = true → ∃ e ∈ s.eflags, e.getLsbD 1 = true
  flagsApart   : ∀ e ∈ s.eflags, e ≠ 3#2

/-- The signal buffers have the lengths the modulator gives them (R131, R138), and the 8-QAM state
is untouched on a block without 8-QAM (R4, R28). -/
structure SignalInv (s : State) : Prop where
  sigSlots   : s.sig.length % Config.samplesPerBit = 0
  timeSlots  : s.sigTime.length = Config.samplesPerBit * s.sigNsym
  qamAbsent  : s.hasQam8 = false → s.fmod = none ∧ s.sigNsym = 0 ∧ s.sigTime = []

/-- The invariant of the machine. -/
def StateInv (s : State) : Prop := StatusInv s ∧ SignalInv s

/-- Every step from a state with `P` leads to a state with `P`. -/
def StepKeeps (P : State → Prop) : Prop := ∀ s t, P s → step s = .next t → P t

/-- The state a command leaves that ends without fault, raises no flag and replaces `BUF`: the
status registers as R60 says, everything else as before. -/
def doneState (s : State) (b : Buf) : State :=
  { s with buf := b, status := s.status &&& 0xF8#8, cause := 0#8, finfo := 0, fpos := 0 }

/-- The state a command leaves that faults (R152): the four status registers, everything else as
before. -/
def faultState (s : State) (code : BitVec 8) (finfo fpos : Nat) : State :=
  { s with status := (s.status &&& 0xF8#8) ||| 0x09#8, cause := code, finfo := finfo, fpos := fpos }

/-- The state a `CHECK` leaves that ends without fault (R100), given the cleaned payload, `err` and
`cor` of every frame. -/
def checkedState (s : State) (r : List (BitSeq × Bool × Bool)) : State :=
  { s with
    buf := .frames (r.map fun x => ⟨x.1, 0#_⟩)
    eflags := r.map fun x => (if x.2.1 then 1#2 else 0#2) + (if x.2.2 then 2#2 else 0#2)
    status := (s.status &&& 0xF8#8) + (if r.any (fun x => x.2.1) then 2#8 else 0#8)
      + (if r.any (fun x => x.2.2) then 4#8 else 0#8)
    cause := 0#8
    finfo := 0
    fpos := 0 }

/-- The reserved words, as R53 lists them: by `op`, `sch = 3`, `z = 1`, `h = 1` except in two words,
and `JOIN` with `sch ≠ 0`. -/
abbrev ReservedWord (w : Byte) : Prop :=
  w.toNat / 16 = 0 ∨ 11 ≤ w.toNat / 16 ∨ w.toNat / 4 % 4 = 3 ∨ w.toNat / 2 % 2 = 1 ∨
    (w.toNat % 2 = 1 ∧ w ≠ 0x69#8 ∧ w ≠ 0x79#8) ∨ w = 0x94#8 ∨ w = 0x98#8

/-- A command on a buffer of another kind faults with `KindMismatch` (R54). -/
def KindChecked (i : Instr) : Prop :=
  ∀ s : State, s.buf.kind ≠ i.inKind → exec i s = .next (faultState s 0x02#8 0 0)

/-- No byte of `c` at a byte-aligned position is the flag (R92 a). -/
abbrev ByteFlagFree (c : BitSeq) : Prop := ∀ i, i < c.length / 8 → slice c (8 * i) (8 * i + Config.flagBits) ≠ Config.flag

/-- `c ++ 0111111` contains no flag at any offset (R92 b). -/
abbrev BitFlagFree (c : BitSeq) : Prop :=
  ∀ q, q < c.length →
    slice (c ++ Config.flag.dropLast) q (q + Config.flagBits) ≠ Config.flag

/-- A frame on the wire under character count (R81), with its declared padding as it stands. -/
def ccWire (f : Frame) : BitSeq :=
  bitsN Config.lenFieldBits (Config.ccHeaderBytes + f.body.length / 8)
    ++ bitsN Config.padFieldBits f.pad.toNat ++ f.body

/-- A frame on the wire under byte stuffing (R83). -/
def byteWire (f : Frame) : BitSeq :=
  Config.flag ++ bitsN Config.padFieldBits f.pad.toNat ++ f.body ++ Config.flag

/-- A frame on the wire under bit stuffing without a padding header (R85). -/
def bitWire (f : Frame) : BitSeq := Config.flag ++ f.body ++ Config.flag

/-- A frame on the wire under bit stuffing with a padding header (R85). -/
def bithWire (f : Frame) : BitSeq :=
  Config.flag ++ bitsN Config.padFieldBits f.pad.toNat ++ f.body ++ Config.flag

/-- What a frame of the character-count format must be (R81, R88). -/
abbrev CcFrame (f : Frame) : Prop :=
  f.body.length % 8 = 0 ∧ Config.ccHeaderBytes + f.body.length / 8 < 2 ^ Config.lenFieldBits ∧
    f.pad.toNat ≤ f.body.length

/-- What a frame of the byte-stuffing format must be (R83, R89, R92). -/
abbrev ByteFrame (f : Frame) : Prop :=
  f.body.length % 8 = 0 ∧ f.pad.toNat ≤ f.body.length ∧
    ByteFlagFree (bitsN Config.padFieldBits f.pad.toNat ++ f.body)

/-- What a frame of the bit-stuffing format must be (R85, R90, R92). -/
abbrev BitFrame (f : Frame) : Prop := f.pad = 0#_ ∧ BitFlagFree f.body

/-- What a frame of the bit-stuffing format with a padding header must be (R85, R91, R92). -/
abbrev BithFrame (f : Frame) : Prop :=
  f.pad.toNat ≤ f.body.length ∧ BitFlagFree (bitsN Config.padFieldBits f.pad.toNat ++ f.body)

/-- The polynomial over GF(2) a bit sequence stands for, first bit the highest power (R103). -/
noncomputable def polyOf (s : BitSeq) : Polynomial (ZMod 2) :=
  s.foldl (fun p b => p * Polynomial.X + Polynomial.C (if b then 1 else 0)) 0

/-- The generator of R104 with its leading term. -/
noncomputable def crcGenerator : Polynomial (ZMod 2) :=
  polyOf (true :: bitsN Config.crcBits Config.crcPoly.toNat)

/-- The bits a line scheme hands to the framer (R70, R140). -/
def lineRep : LineScheme → BitSeq → BitSeq
  | .nrz, b => b
  | .man, b => lencMan b
  | .ami, b => b

/-- What an error scheme makes of a payload (R101, R107, R121). -/
def codedBody : ErrorScheme → BitSeq → BitSeq
  | .par, m => protectPar m
  | .crc, m => protectCrc m
  | .ham, m => protectHam m

/-- Premises (d) and (e) of R144 for one coded body: the framing can carry it. -/
def Carries : FramingScheme → ErrorScheme → BitSeq → Prop
  | .cc, _, x => Config.ccHeaderBytes + (x.length + ceil8 x.length) / 8 < 2 ^ Config.lenFieldBits
  | .byte, _, x => ByteFlagFree (bitsN Config.padFieldBits (ceil8 x.length) ++ padded x)
  | .bit, .crc, x => BitFlagFree (bitsN Config.padFieldBits 0 ++ x)
  | .bit, .par, x => BitFlagFree x
  | .bit, .ham, x => BitFlagFree x

/-- The chunks a framing scheme cuts the line-coded form of a message into (R76 to R79). -/
def chunksOf (l : LineScheme) (f : FramingScheme) (b : BitSeq) : List BitSeq :=
  chunk (lineRep l b) (match f with
    | .cc => Config.ccMaxDataBytes
    | .byte => Config.stuffMaxDataBytes
    | .bit => Config.stuffMaxDataBytes)

/-- Premises (d) and (e) of R144 for a message: every chunk of its line-coded form is carried. -/
def Exchangeable (l : LineScheme) (f : FramingScheme) (e : ErrorScheme) (b : BitSeq) : Prop :=
  ∀ c ∈ chunksOf l f b, Carries f e (codedBody e c)

end Sys2Proof
end

