-- ==== Sys2Proof/WellFormed.lean ====
section
/-! DEFINITION. What makes a command word legal (spec 30_encoding.md R45 to R49, R53, R56): the
conditions the spec states on its fields, one check each. They are stated here from the prose of the
rules, apart from the decoder. -/

namespace Sys2Proof

/-- `op` is one of the ten operations `0x1` to `0xA` (R46). -/
def CmdFields.opOk (c : CmdFields) : Bool := decide (1 ≤ c.op.toNat ∧ c.op.toNat ≤ 10)

/-- `sch = 3` is reserved in every family, and `JOIN` takes 0 only (R47). -/
def CmdFields.schOk (c : CmdFields) : Bool :=
  decide (c.sch ≠ 3#2) && (decide (c.op ≠ 9#4) || decide (c.sch = 0#2))

/-- Bit 1 must be written 0 (R49). -/
def CmdFields.zOk (c : CmdFields) : Bool := decide (c.z = 0#1)

/-- `h = 1` is legal only with `op = WRAP` or `op = DEFRAME` and `sch = BIT` (R48). -/
def CmdFields.hOk (c : CmdFields) : Bool :=
  decide (c.h = 0#1) || ((decide (c.op = 6#4) || decide (c.op = 7#4)) && decide (c.sch = 2#2))

/-- The fields spell a row of the opcode map (R53). -/
def CmdFields.wellFormed (c : CmdFields) : Bool := c.opOk && c.schOk && c.zOk && c.hOk

/-- Whether the block has the command: `MOD.QAM8` exists only when `HAS_QAM8 = true` (R56). -/
def Instr.wellFormed (hasQam8 : Bool) (i : Instr) : Bool := hasQam8 || decide (i ≠ .modQam8)

end Sys2Proof
end

