-- ==== Sys2Proof/Certificates/Slice0/Obligations.lean ====
section
/-! DEFINITION. The statements for the provers, in the order of OBLIGATIONS.json. A result statement
gives the WHOLE next state, so it is also the frame of the command: every field not named keeps its
value. `doneState`, `checkedState` and `faultState` (Safety.lean) spell that state. -/

open Sys2Proof Sys2Proof.Machine

/-! ## Decoding and issuing -/

/-- One word of every operation, written out from the opcode map (spec 30_encoding.md section 2),
decodes to its command. -/
def Obligations.WordsDecodeAsTheMapSays : Prop :=
  decode 0b00010000#8 = .ok .lencNrz ∧ decode 0b00101000#8 = .ok .ldecAmi ∧
  decode 0b00110100#8 = .ok .lmapMan ∧ decode 0b01000100#8 = .ok .splitByte ∧
  decode 0b01010100#8 = .ok .protectCrc ∧ decode 0b01101001#8 = .ok .wrapBith ∧
  decode 0b01111000#8 = .ok .deframeBit ∧ decode 0b10001000#8 = .ok .checkHam ∧
  decode 0b10010000#8 = .ok .join ∧ decode 0b10100100#8 = .ok .modFsk

/-- Decode and encode agree on every command. -/
def Obligations.DecodeOfEncodeIsTheCommand : Prop := ∀ i : Instr, decode (encode i) = .ok i

/-- A word decodes exactly when R53 does not list it as reserved, which is when its fields pass the
checks of R45 to R49, and then it is the command's only word. `0xA8` decodes here whatever `HAS_QAM8`
is, although R56 makes it reserved on a block without 8-QAM: the decoder does not see the parameter,
and `exec` raises `IllegalCommand` there. That is the model's choice, notes/assumptions/17.md. -/
def Obligations.ExactlyTheLegalWordsDecode : Prop :=
  ∀ w : Byte,
    ((∃ i, decode w = .ok i) ↔ ¬ ReservedWord w) ∧
    ((fieldsOf w).wellFormed = true ↔ ¬ ReservedWord w) ∧
    ∀ i, decode w = .ok i → encode i = w

/-- A step runs the decoded command: when the host's next action is a write of `w` to `CMD`, the step
issues `w` with the action taken off the host's list, and issuing a word that decodes to `i` is
`exec i` (R26; the list is the model's, notes/assumptions/1.md). -/
def Obligations.StepRunsTheDecodedCommand : Prop :=
  ∀ (s : State) (rest : List HostAction) (w : Byte),
    s.host = .write (.cmd w) :: rest →
    step s = issue { s with host := rest } w ∧
    ∀ i, decode w = .ok i → step s = exec i { s with host := rest }

/-- R53, R56: writing a reserved word to `CMD` raises `IllegalCommand` and changes nothing else;
`0xA8` is reserved on a block without 8-QAM and runs `MOD.QAM8` on a block with it. -/
def Obligations.ReservedWordsRaiseIllegalCommand : Prop :=
  (∀ (s : State) (w : Byte), ReservedWord w → issue s w = .next (faultState s 0x01#8 0 0)) ∧
  (∀ s : State, s.hasQam8 = false → issue s 0xA8#8 = .next (faultState s 0x01#8 0 0)) ∧
  ∀ s : State, s.hasQam8 = true → issue s 0xA8#8 = exec .modQam8 s

/-- R54, R154: a command the block has, on a buffer of another kind, raises `KindMismatch` and
changes nothing else; whatever else is wrong. -/
def Obligations.WrongKindRaisesKindMismatch : Prop :=
  ∀ (i : Instr) (s : State), i.wellFormed s.hasQam8 = true → s.buf.kind ≠ i.inKind →
    exec i s = .next (faultState s 0x02#8 0 0)

/-! ## The whole machine -/

/-- Every command on every input has an outcome, and it is a next state (70_reset_and_hazards.md
section 3, R180). -/
def Obligations.EveryCommandHasANextState : Prop :=
  ∀ (i : Instr) (s : State), ∃ t, exec i s = .next t

/-- R152: a command that ends with `FAULT` set has written the four status registers as a fault entry
does and nothing else. -/
def Obligations.FaultingCommandsWriteOnlyTheStatusRegisters : Prop :=
  ∀ (i : Instr) (s t : State), exec i s = .next t → t.faultBit = true →
    ∃ (c : Cause) (k p : Nat), t = faultState s c.code k p

/-- R17, R18, R19, R46: a command that ends without fault leaves `CAUSE`, `FINFO` and `FPOS` 0, keeps
`STATUS[7:3]` and leaves `BUF` of its output kind; only a `CHECK` can leave `ERR` set, only
`CHECK.HAM` can leave `COR` set. -/
def Obligations.CompletedCommandsClearTheStatusRegisters : Prop :=
  ∀ (i : Instr) (s t : State), exec i s = .next t → t.faultBit = false →
    t.cause = 0#8 ∧ t.finfo = 0 ∧ t.fpos = 0 ∧ t.status &&& 0xF8#8 = s.status &&& 0xF8#8 ∧
    t.buf.kind = i.outKind ∧
    (t.errBit = true → i.op = .check) ∧ (t.corBit = true → i = .checkHam)

/-- The frame of every command: which command may write which register or buffer (R16, R20 to R24,
R134); parameters and everything of the host are written by no command. -/
def Obligations.EachRegisterHasItsOwnWriters : Prop :=
  ∀ (i : Instr) (s t : State), exec i s = .next t →
    (i.op ≠ .mod → t.sig = s.sig) ∧
    (i.op = .mod → t.buf = s.buf) ∧
    (i ≠ .modQam8 → t.sigNsym = s.sigNsym ∧ t.sigTime = s.sigTime) ∧
    (i ≠ .protectCrc → t.filltab = s.filltab) ∧
    (i.op ≠ .check → t.eflags = s.eflags) ∧
    (i ≠ .protectCrc → i ≠ .checkCrc → t.crcrem = s.crcrem) ∧
    (i ≠ .checkHam → t.syn = s.syn) ∧
    t.amp = s.amp ∧ t.f = s.f ∧ t.f1 = s.f1 ∧ t.f2 = s.f2 ∧ t.fmod = s.fmod ∧
    t.hasQam8 = s.hasQam8 ∧ t.host = s.host ∧ t.readLog = s.readLog ∧ t.freeCount = s.freeCount

/-- R162, R17: a fault sets `SF`; a step clears it only by the reset event (which the model has as an
action of the host, notes/assumptions/10.md), and that does; no command reads `STATUS`: with another
`STATUS` before, everything else after is the same, and so are the three bits a command rewrites. -/
def Obligations.StickyFaultIsClearedByResetOnly : Prop :=
  (∀ (i : Instr) (s t : State), exec i s = .next t → t.faultBit = true → t.sfBit = true) ∧
  (∀ s t : State, step s = .next t → s.sfBit = true → (∀ rest, s.host ≠ .reset :: rest) → t.sfBit = true) ∧
  (∀ (s t : State) (rest : List HostAction), s.host = .reset :: rest → step s = .next t → t.sfBit = false) ∧
  ∀ (i : Instr) (s t : State) (x : BitVec 8), exec i s = .next t →
    ∃ u, exec i { s with status := x } = .next u ∧ { u with status := t.status } = t ∧
      u.faultBit = t.faultBit ∧ u.errBit = t.errBit ∧ u.corBit = t.corBit

/-- Every step keeps the invariant, in every state that has it. -/
def Obligations.StepKeepsTheInvariant : Prop := StepKeeps StateInv

/-- The reset state has the invariant. -/
def Obligations.ResetMeetsTheInvariant : Prop := StateInv State.reset

/-! ## Reset and the host -/

/-- R29: the values every piece of the block's state has after the reset event. -/
def Obligations.ResetSetsEveryPieceOfState : Prop :=
  ∀ (s : State) (rest : List HostAction), s.host = .reset :: rest →
    ∃ t, step s = .next t ∧ t.buf = .bits [] ∧ t.sig = [] ∧ t.sigNsym = 0 ∧ t.sigTime = [] ∧
      t.status = 0x00#8 ∧ t.cause = 0x00#8 ∧ t.finfo = 0 ∧ t.fpos = 0 ∧ t.filltab = [] ∧
      t.eflags = [] ∧ t.crcrem = 0#32 ∧ t.syn = 0 ∧
      t.amp = none ∧ t.f = none ∧ t.f1 = none ∧ t.f2 = none ∧ t.fmod = none

/-- R28, R12, R22: a host write of a parameter register makes it written, a write of a read-only or
reserved register, of `FMOD` on a block without 8-QAM, or of `KIND = 3` is ignored. -/
def Obligations.HostRegisterWrites : Prop :=
  ∀ (s : State) (rest : List HostAction),
    (∀ v, s.host = .write (.param .amp v) :: rest → step s = .next { s with host := rest, amp := some v }) ∧
    (∀ v, s.host = .write (.param .f v) :: rest → step s = .next { s with host := rest, f := some v }) ∧
    (∀ v, s.host = .write (.param .f1 v) :: rest → step s = .next { s with host := rest, f1 := some v }) ∧
    (∀ v, s.host = .write (.param .f2 v) :: rest → step s = .next { s with host := rest, f2 := some v }) ∧
    (∀ v, s.host = .write (.param .fmod v) :: rest →
      step s = .next { s with host := rest, fmod := if s.hasQam8 then some v else s.fmod }) ∧
    (∀ r v, s.host = .write (.readOnly r v) :: rest → step s = .next { s with host := rest }) ∧
    (∀ j v, s.host = .write (.reserved j v) :: rest → step s = .next { s with host := rest }) ∧
    (s.host = .write (.kind 3#2) :: rest → step s = .next { s with host := rest })

/-- R40, R57: the host's writes of `BUF` and `FILLTAB` and `flip` write that and nothing else, and with
nothing to do the block is idle (R161). A write of `KIND` that changes the kind leaves `BUF` of the new
kind; its value is not stated (the model's choice, notes/assumptions/6.md). What is not the block's
state survives the reset event (notes/assumptions/10.md). -/
def Obligations.HostBufferWrites : Prop :=
  ∀ (s : State) (rest : List HostAction),
    (s.host = [] → step s = .next s) ∧
    (∀ b, s.host = .loadBuf b :: rest → step s = .next { s with host := rest, buf := b }) ∧
    (∀ t, s.host = .setFilltab t :: rest → step s = .next { s with host := rest, filltab := t }) ∧
    (∀ j u x v, s.host = .flip j :: rest → s.buf = .bits (u ++ x :: v) → u.length = j →
      step s = .next { s with host := rest, buf := .bits (u ++ (!x) :: v) }) ∧
    (s.host = .reset :: rest → ∃ t, step s = .next t ∧ t.hasQam8 = s.hasQam8 ∧ t.host = rest ∧
      t.readLog = s.readLog ∧ t.freeCount = s.freeCount) ∧
    ∀ (c : BitVec 2) (k : Kind), s.host = .write (.kind c) :: rest → kindOf c = some k →
      ∃ (b : Buf) (n : Nat), step s = .next { s with host := rest, buf := b, freeCount := n } ∧
        b.kind = k ∧ (s.buf.kind = k → b = s.buf)

/-- R35, R28: a host read changes nothing of the block; what it returns goes to the host. The value
of an unwritten parameter register is not stated (U6). The model's choices in it: the counter of free
values may advance (notes/assumptions/7.md), the returned values are kept in a list
(notes/assumptions/9.md), and `SIG_NSYM` and `SIG_TIME` are read as they stand on a block without
8-QAM too, where the spec does not have them (notes/assumptions/20.md). -/
def Obligations.HostReadsChangeNothing : Prop :=
  ∀ (s : State) (rest : List HostAction) (p : ReadPort), s.host = .read p :: rest →
    ∃ (v : ReadValue) (n : Nat),
      step s = .next { s with host := rest, readLog := s.readLog ++ [v], freeCount := n } ∧
      (p = .reg .cmd → v = .nat 0) ∧
      (p = .reg (.readOnly .status) → v = .nat (s.status.toNat % 16)) ∧
      (p = .reg (.readOnly .cause) → v = .nat s.cause.toNat) ∧
      (p = .reg (.readOnly .finfo) → v = .nat s.finfo) ∧
      (p = .reg (.readOnly .fpos) → v = .nat s.fpos) ∧
      (p = .reg (.readOnly .crcrem) → v = .nat s.crcrem.toNat) ∧
      (p = .reg (.readOnly .syn) → v = .nat s.syn) ∧
      (∀ b, p = .reg .kind → s.buf = .bits b → v = .nat 0) ∧
      (∀ y, p = .reg .kind → s.buf = .syms y → v = .nat 1) ∧
      (∀ f, p = .reg .kind → s.buf = .frames f → v = .nat 2) ∧
      (∀ j, p = .reg (.reserved j) → v = .nat 0) ∧
      (∀ x, p = .reg (.param .amp) → s.amp = some x → v = .num x) ∧
      (∀ x, p = .reg (.param .f) → s.f = some x → v = .num x) ∧
      (∀ x, p = .reg (.param .f1) → s.f1 = some x → v = .num x) ∧
      (∀ x, p = .reg (.param .f2) → s.f2 = some x → v = .num x) ∧
      (∀ x, p = .reg (.param .fmod) → s.hasQam8 = true → s.fmod = some x → v = .num x) ∧
      (p = .reg (.param .fmod) → s.hasQam8 = false → v = .num (.rat 0)) ∧
      (p = .buf → v = .buf s.buf) ∧ (p = .sig → v = .sig s.sig) ∧
      (p = .sigNsym → v = .nat s.sigNsym) ∧ (p = .sigTime → v = .time s.sigTime) ∧
      (p = .filltab → v = .filltab s.filltab) ∧ (p = .eflags → v = .eflags s.eflags)

/-! ## Line coder -/

/-- R61, with R60: one symbol per bit, `+1` for a 1 and `-1` for a 0. -/
def Obligations.LencNrzMapsBitsToLevels : Prop :=
  decode 0x10#8 = .ok .lencNrz ∧ KindChecked .lencNrz ∧
  ∀ (s : State) (b : BitSeq), s.buf = .bits b →
    ∃ y : List SymCode, exec .lencNrz s = .next (doneState s (.syms y)) ∧ y.length = b.length ∧
      ∀ i, i < b.length → (y.getD i 0#2).toInt = if b.getD i false then 1 else -1

/-- R62: bit `i` becomes elements `2i` and `2i+1`: the bit and its complement. -/
def Obligations.LencManDoublesEachBit : Prop :=
  decode 0x14#8 = .ok .lencMan ∧ KindChecked .lencMan ∧
  ∀ (s : State) (b : BitSeq), s.buf = .bits b →
    ∃ y : BitSeq, exec .lencMan s = .next (doneState s (.bits y)) ∧ y.length = 2 * b.length ∧
      ∀ i, i < b.length →
        y.getD (2 * i) false = b.getD i false ∧ y.getD (2 * i + 1) false = !b.getD i false

/-- R63: a 0 is level 0; the 1s alternate, the first being `+1`, whatever lies between them. -/
def Obligations.LencAmiAlternatesTheMarks : Prop :=
  decode 0x18#8 = .ok .lencAmi ∧ KindChecked .lencAmi ∧
  ∀ (s : State) (b : BitSeq), s.buf = .bits b →
    ∃ y : List SymCode, exec .lencAmi s = .next (doneState s (.syms y)) ∧ y.length = b.length ∧
      ∀ i, i < b.length → (y.getD i 0#2).toInt =
        if b.getD i false then (if (b.take i).count true % 2 = 0 then 1 else -1) else 0

/-- R64, R67: `LDEC.NRZ` and `LMAP.NRZ` give 1 exactly for the symbol `+1`. -/
def Obligations.NrzReadsPlusOneAsOne : Prop :=
  decode 0x20#8 = .ok .ldecNrz ∧ decode 0x30#8 = .ok .lmapNrz ∧
  KindChecked .ldecNrz ∧ KindChecked .lmapNrz ∧
  ∀ (s : State) (y : List SymCode), s.buf = .syms y →
    ∃ b : BitSeq, exec .ldecNrz s = .next (doneState s (.bits b)) ∧
      exec .lmapNrz s = .next (doneState s (.bits b)) ∧ b.length = y.length ∧
      ∀ i, i < y.length → (b.getD i false = true ↔ (y.getD i 0#2).toInt = 1)

/-- R66, R69: `LDEC.AMI` and `LMAP.AMI` give 1 exactly for a nonzero symbol. -/
def Obligations.AmiReadsNonzeroAsOne : Prop :=
  decode 0x28#8 = .ok .ldecAmi ∧ decode 0x38#8 = .ok .lmapAmi ∧
  KindChecked .ldecAmi ∧ KindChecked .lmapAmi ∧
  ∀ (s : State) (y : List SymCode), s.buf = .syms y →
    ∃ b : BitSeq, exec .ldecAmi s = .next (doneState s (.bits b)) ∧
      exec .lmapAmi s = .next (doneState s (.bits b)) ∧ b.length = y.length ∧
      ∀ i, i < y.length → (b.getD i false = true ↔ (y.getD i 0#2).toInt ≠ 0)

/-- R65: an odd length faults with the index of the unpaired element; else pair `j` is 0 exactly when
it is `0,1`. -/
def Obligations.LdecManDecodesPairs : Prop :=
  decode 0x24#8 = .ok .ldecMan ∧ KindChecked .ldecMan ∧
  (∀ (s : State) (y : BitSeq), s.buf = .bits y → y.length % 2 = 1 →
    exec .ldecMan s = .next (faultState s 0x10#8 0 (y.length - 1))) ∧
  ∀ (s : State) (y : BitSeq), s.buf = .bits y → y.length % 2 = 0 →
    ∃ b : BitSeq, exec .ldecMan s = .next (doneState s (.bits b)) ∧ 2 * b.length = y.length ∧
      ∀ j, j < b.length → (b.getD j false = false ↔
        (y.getD (2 * j) false = false ∧ y.getD (2 * j + 1) false = true))

/-- R68: `LMAP.MAN` leaves the buffer as it is, whatever its length. -/
def Obligations.LmapManIsTheIdentity : Prop :=
  decode 0x34#8 = .ok .lmapMan ∧ KindChecked .lmapMan ∧
  ∀ (s : State) (y : BitSeq), s.buf = .bits y → exec .lmapMan s = .next (doneState s (.bits y))

/-- The laws of R70, through the commands, and the inference R62 marks as its own: Manchester output
never has three equal bits in a row, so it never contains the flag. -/
def Obligations.LineCodeLaws : Prop :=
  ∀ (s : State) (b : BitSeq), s.buf = .bits b →
    runCommands [.lencNrz, .ldecNrz] s = .next (doneState s (.bits b)) ∧
    runCommands [.lencAmi, .ldecAmi] s = .next (doneState s (.bits b)) ∧
    runCommands [.lencMan, .ldecMan] s = .next (doneState s (.bits b)) ∧
    runCommands [.lencNrz, .lmapNrz] s = .next (doneState s (.bits b)) ∧
    runCommands [.lencAmi, .lmapAmi] s = .next (doneState s (.bits b)) ∧
    runCommands [.lencMan, .lmapMan] s = exec .lencMan s ∧
    ∀ (t : State) (y : BitSeq), exec .lencMan s = .next t → t.buf = .bits y →
      (∀ (x : Bit) (u v : BitSeq), y ≠ u ++ [x, x, x] ++ v) ∧
      ∀ u v : BitSeq, y ≠ u ++ Config.flag ++ v

/-! ## Framer -/

/-- R76 to R79: the frames' bodies concatenate to the input, every frame but the last has 2032 bits,
the last between 1 and 2032, every padding count is 0. -/
def Obligations.SplitCutsIntoChunks : Prop :=
  decode 0x40#8 = .ok .splitCc ∧ decode 0x44#8 = .ok .splitByte ∧ decode 0x48#8 = .ok .splitBit ∧
  KindChecked .splitCc ∧ KindChecked .splitByte ∧ KindChecked .splitBit ∧
  ∀ (s : State) (b : BitSeq), s.buf = .bits b →
    ∃ f : List Frame, exec .splitCc s = .next (doneState s (.frames f)) ∧
      exec .splitByte s = .next (doneState s (.frames f)) ∧
      exec .splitBit s = .next (doneState s (.frames f)) ∧
      (f.map Frame.body).flatten = b ∧
      (∀ x ∈ f, x.pad = 0#8 ∧ 1 ≤ x.body.length ∧ x.body.length ≤ 2032) ∧
      ∀ x ∈ f.dropLast, x.body.length = 2032

/-- R82: every frame is its length byte, its padding byte, its body and its zero padding; the input's
padding counts are ignored. The first frame that is too long faults with its index. -/
def Obligations.WrapCcWritesTheHeaders : Prop :=
  decode 0x60#8 = .ok .wrapCc ∧ KindChecked .wrapCc ∧
  (∀ (s : State) (f : List Frame), s.buf = .frames f →
    (∀ x ∈ f, 2 + (x.body.length + ceil8 x.body.length) / 8 ≤ 255) →
    exec .wrapCc s = .next (doneState s (.bits (f.flatMap fun x =>
      bitsN 8 (2 + (x.body.length + ceil8 x.body.length) / 8) ++ bitsN 8 (ceil8 x.body.length)
        ++ x.body ++ rep false (ceil8 x.body.length))))) ∧
  ∀ (s : State) (f g : List Frame) (x : Frame), s.buf = .frames (f ++ x :: g) →
    (∀ y ∈ f, 2 + (y.body.length + ceil8 y.body.length) / 8 ≤ 255) →
    2 + (x.body.length + ceil8 x.body.length) / 8 > 255 →
    exec .wrapCc s = .next (faultState s 0x27#8 f.length 0)

/-- R84, R86, R87: what the three flag disciplines write for every frame. -/
def Obligations.WrapWritesTheFlags : Prop :=
  decode 0x64#8 = .ok .wrapByte ∧ decode 0x68#8 = .ok .wrapBit ∧ decode 0x69#8 = .ok .wrapBith ∧
  KindChecked .wrapByte ∧ KindChecked .wrapBit ∧ KindChecked .wrapBith ∧
  ∀ (s : State) (f : List Frame), s.buf = .frames f →
    exec .wrapByte s = .next (doneState s (.bits (f.flatMap fun x =>
      bitsN 8 0x7E ++ bitsN 8 (ceil8 x.body.length) ++ x.body ++ rep false (ceil8 x.body.length)
        ++ bitsN 8 0x7E))) ∧
    exec .wrapBit s = .next (doneState s (.bits (f.flatMap fun x =>
      bitsN 8 0x7E ++ x.body ++ bitsN 8 0x7E))) ∧
    exec .wrapBith s = .next (doneState s (.bits (f.flatMap fun x =>
      bitsN 8 0x7E ++ bitsN 8 0 ++ x.body ++ bitsN 8 0x7E)))

/-- R88: `DEFRAME.CC` ends without fault exactly on the streams that are a concatenation of
well-headed frames, and then returns those frames. -/
def Obligations.DeframeCcParsesExactlyTheFormat : Prop :=
  decode 0x70#8 = .ok .deframeCc ∧ KindChecked .deframeCc ∧
  ∀ (s : State) (v : BitSeq), s.buf = .bits v → ∀ f : List Frame,
    exec .deframeCc s = .next (doneState s (.frames f)) ↔ ((∀ x ∈ f, CcFrame x) ∧ v = f.flatMap ccWire)

/-- R89, R92 (a): the same for byte stuffing; a frame must not hold a byte-aligned flag byte. -/
def Obligations.DeframeByteParsesExactlyTheFormat : Prop :=
  decode 0x74#8 = .ok .deframeByte ∧ KindChecked .deframeByte ∧
  ∀ (s : State) (v : BitSeq), s.buf = .bits v → ∀ f : List Frame,
    exec .deframeByte s = .next (doneState s (.frames f)) ↔
      ((∀ x ∈ f, ByteFrame x) ∧ v = f.flatMap byteWire)

/-- R90, R92 (b): the same for bit stuffing without a padding header. -/
def Obligations.DeframeBitParsesExactlyTheFormat : Prop :=
  decode 0x78#8 = .ok .deframeBit ∧ KindChecked .deframeBit ∧
  ∀ (s : State) (v : BitSeq), s.buf = .bits v → ∀ f : List Frame,
    exec .deframeBit s = .next (doneState s (.frames f)) ↔
      ((∀ x ∈ f, BitFrame x) ∧ v = f.flatMap bitWire)

/-- R91, R92 (b): the same for bit stuffing with a padding header, whatever value it holds. -/
def Obligations.DeframeBithParsesExactlyTheFormat : Prop :=
  decode 0x79#8 = .ok .deframeBith ∧ KindChecked .deframeBith ∧
  ∀ (s : State) (v : BitSeq), s.buf = .bits v → ∀ f : List Frame,
    exec .deframeBith s = .next (doneState s (.frames f)) ↔
      ((∀ x ∈ f, BithFrame x) ∧ v = f.flatMap bithWire)

/-- R88, R151, R154: where `DEFRAME.CC` faults, after any good frames `f`: cause, frame index and the
bit index where the bad frame starts. -/
def Obligations.DeframeCcFaultsAtTheFirstBadFrame : Prop :=
  (∀ (s : State) (v : BitSeq), s.buf = .bits v → v.length % 8 ≠ 0 →
    exec .deframeCc s = .next (faultState s 0x22#8 0 (8 * (v.length / 8)))) ∧
  ∀ (s : State) (f : List Frame) (rest : BitSeq), (∀ x ∈ f, CcFrame x) → rest.length % 8 = 0 →
    s.buf = .bits (f.flatMap ccWire ++ rest) →
    (rest.length = 8 →
      exec .deframeCc s = .next (faultState s 0x20#8 f.length (f.flatMap ccWire).length)) ∧
    (16 ≤ rest.length → octet rest 0 < 2 →
      exec .deframeCc s = .next (faultState s 0x21#8 f.length (f.flatMap ccWire).length)) ∧
    (16 ≤ rest.length → rest.length < 8 * octet rest 0 →
      exec .deframeCc s = .next (faultState s 0x20#8 f.length (f.flatMap ccWire).length)) ∧
    (2 ≤ octet rest 0 → 8 * octet rest 0 ≤ rest.length → 16 ≤ rest.length →
      8 * (octet rest 0 - 2) < octet rest 8 →
      exec .deframeCc s = .next (faultState s 0x26#8 f.length (f.flatMap ccWire).length))

/-- R89, R151, R154: the same for `DEFRAME.BYTE`. -/
def Obligations.DeframeByteFaultsAtTheFirstBadFrame : Prop :=
  (∀ (s : State) (v : BitSeq), s.buf = .bits v → v.length % 8 ≠ 0 →
    exec .deframeByte s = .next (faultState s 0x22#8 0 (8 * (v.length / 8)))) ∧
  ∀ (s : State) (f : List Frame) (rest : BitSeq), (∀ x ∈ f, ByteFrame x) → rest.length % 8 = 0 →
    s.buf = .bits (f.flatMap byteWire ++ rest) →
    (rest ≠ [] → octet rest 0 ≠ 0x7E →
      exec .deframeByte s = .next (faultState s 0x23#8 f.length (f.flatMap byteWire).length)) ∧
    (∀ c, rest = Config.flag ++ c → ByteFlagFree c →
      exec .deframeByte s = .next (faultState s 0x24#8 f.length (f.flatMap byteWire).length)) ∧
    (∀ more, rest = Config.flag ++ Config.flag ++ more →
      exec .deframeByte s = .next (faultState s 0x25#8 f.length (f.flatMap byteWire).length)) ∧
    (∀ c more, rest = Config.flag ++ c ++ Config.flag ++ more → c ≠ [] → c.length % 8 = 0 →
      ByteFlagFree c → c.length - 8 < octet c 0 →
      exec .deframeByte s = .next (faultState s 0x26#8 f.length (f.flatMap byteWire).length))

/-- R90, R151, R154: the same for `DEFRAME.BIT`. -/
def Obligations.DeframeBitFaultsAtTheFirstBadFrame : Prop :=
  ∀ (s : State) (f : List Frame) (rest : BitSeq), (∀ x ∈ f, BitFrame x) →
    s.buf = .bits (f.flatMap bitWire ++ rest) →
    (rest ≠ [] → slice rest 0 8 ≠ Config.flag →
      exec .deframeBit s = .next (faultState s 0x23#8 f.length (f.flatMap bitWire).length)) ∧
    (∀ c, rest = Config.flag ++ c → (∀ q, slice c q (q + 8) ≠ Config.flag) →
      exec .deframeBit s = .next (faultState s 0x24#8 f.length (f.flatMap bitWire).length))

/-- R91, R151, R154: the same for `DEFRAME.BITH`. -/
def Obligations.DeframeBithFaultsAtTheFirstBadFrame : Prop :=
  ∀ (s : State) (f : List Frame) (rest : BitSeq), (∀ x ∈ f, BithFrame x) →
    s.buf = .bits (f.flatMap bithWire ++ rest) →
    (rest ≠ [] → slice rest 0 8 ≠ Config.flag →
      exec .deframeBith s = .next (faultState s 0x23#8 f.length (f.flatMap bithWire).length)) ∧
    (∀ c, rest = Config.flag ++ c → (∀ q, slice c q (q + 8) ≠ Config.flag) →
      exec .deframeBith s = .next (faultState s 0x24#8 f.length (f.flatMap bithWire).length)) ∧
    (∀ c more, rest = Config.flag ++ c ++ Config.flag ++ more → BitFlagFree c → c.length < 8 →
      exec .deframeBith s = .next (faultState s 0x25#8 f.length (f.flatMap bithWire).length)) ∧
    (∀ c more, rest = Config.flag ++ c ++ Config.flag ++ more → BitFlagFree c → 8 ≤ c.length →
      c.length - 8 < octet c 0 →
      exec .deframeBith s = .next (faultState s 0x26#8 f.length (f.flatMap bithWire).length))

/-- 41_framer.md section 4: after a `DEFRAME` fault (other than a stream that is no whole number of
bytes), deframing the bits before `FPOS` gives the frames before the bad one, `FINFO` of them. -/
def Obligations.DeframeFaultsLeaveARecoverablePrefix : Prop :=
  ∀ (i : Instr) (s t : State) (v : BitSeq), i.op = .deframe → s.buf = .bits v →
    exec i s = .next t → t.faultBit = true → t.cause ≠ 0x22#8 →
    ∃ f : List Frame, f.length = t.finfo ∧ t.fpos ≤ v.length ∧
      exec i { s with buf := .bits (v.take t.fpos) } = .next (doneState s (.frames f))

/-- R92: deframing what `WRAP` wrote for one frame gives the frame's content back exactly when the
content holds no false flag; under bit stuffing the two ways the rule puts that condition agree. -/
def Obligations.StuffingIsTransparentExactlyWithoutFalseFlags : Prop :=
  (∀ c : BitSeq, BitFlagFree c ↔
    ((∀ u v : BitSeq, c ≠ u ++ Config.flag ++ v) ∧
      ∀ u : BitSeq, c ≠ u ++ [false, true, true, true, true, true, true])) ∧
  ∀ (s : State) (x : Frame), s.buf = .frames [x] →
    (runCommands [.wrapByte, .deframeByte] s =
        .next (doneState s (.frames [⟨padded x.body, BitVec.ofNat 8 (ceil8 x.body.length)⟩])) ↔
      ByteFlagFree (bitsN 8 (ceil8 x.body.length) ++ padded x.body)) ∧
    (runCommands [.wrapBit, .deframeBit] s = .next (doneState s (.frames [⟨x.body, 0#8⟩])) ↔
      BitFlagFree x.body) ∧
    (runCommands [.wrapBith, .deframeBith] s = .next (doneState s (.frames [⟨x.body, 0#8⟩])) ↔
      BitFlagFree (bitsN 8 0 ++ x.body))

/-- R93: the bodies in order; padding counts are ignored. -/
def Obligations.JoinConcatenatesTheBodies : Prop :=
  decode 0x90#8 = .ok .join ∧ KindChecked .join ∧
  ∀ (s : State) (f : List Frame), s.buf = .frames f →
    exec .join s = .next (doneState s (.bits ((f.map Frame.body).flatten)))

/-- R94: framing a message and deframing it gives it back with padding 0, for `CC` up to 2024 bits
and, under the flag disciplines, when no frame holds a false flag. -/
def Obligations.FramingIsIdempotent : Prop :=
  ∀ (s : State) (b : BitSeq), s.buf = .bits b →
    (b.length % 8 = 0 → b.length ≤ 2024 → ∃ f : List Frame,
      runCommands [.splitCc, .wrapCc, .deframeCc] s = .next (doneState s (.frames f)) ∧
      (f.map Frame.body).flatten = b ∧ ∀ x ∈ f, x.pad = 0#8) ∧
    (b.length % 8 = 0 → (∀ c ∈ chunk b Config.stuffMaxDataBytes, ByteFlagFree (bitsN 8 0 ++ c)) → ∃ f : List Frame,
      runCommands [.splitByte, .wrapByte, .deframeByte] s = .next (doneState s (.frames f)) ∧
      (f.map Frame.body).flatten = b ∧ ∀ x ∈ f, x.pad = 0#8) ∧
    ((∀ c ∈ chunk b Config.stuffMaxDataBytes, BitFlagFree c) → ∃ f : List Frame,
      runCommands [.splitBit, .wrapBit, .deframeBit] s = .next (doneState s (.frames f)) ∧
      (f.map Frame.body).flatten = b ∧ ∀ x ∈ f, x.pad = 0#8) ∧
    ((∀ c ∈ chunk b Config.stuffMaxDataBytes, BitFlagFree (bitsN 8 0 ++ c)) → ∃ f : List Frame,
      runCommands [.splitBit, .wrapBith, .deframeBith] s = .next (doneState s (.frames f)) ∧
      (f.map Frame.body).flatten = b ∧ ∀ x ∈ f, x.pad = 0#8)

/-- R176: the largest payload one character-count frame carries, per error scheme. -/
def Obligations.CharacterCountLimits : Prop :=
  ∀ (s : State) (m : BitSeq) (p : BitVec 8), s.buf = .frames [⟨m, p⟩] →
    ((∃ t, exec .wrapCc s = .next t ∧ t.faultBit = false) ↔ m.length ≤ 2024) ∧
    ((∃ t, runCommands [.protectPar, .wrapCc] s = .next t ∧ t.faultBit = false) ↔ m.length ≤ 2023) ∧
    ((∃ t, runCommands [.protectHam, .wrapCc] s = .next t ∧ t.faultBit = false) ↔ m.length ≤ 2013) ∧
    ((∃ t, runCommands [.protectCrc, .wrapCc] s = .next t ∧ t.faultBit = false) ↔ m.length ≤ 1992)

/-! ## Error control -/

/-- R101, R100: one bit is appended to every payload, and the number of 1s becomes even. -/
def Obligations.ProtectParMakesTheOnesEven : Prop :=
  decode 0x50#8 = .ok .protectPar ∧ KindChecked .protectPar ∧
  ∀ (s : State) (f : List Frame), s.buf = .frames f →
    ∃ par : BitSeq → Bit,
      exec .protectPar s = .next (doneState s (.frames (f.map fun x => ⟨x.body ++ [par x.body], 0#8⟩))) ∧
      ∀ m : BitSeq, (m ++ [par m]).count true % 2 = 0

/-- R102, R100: every frame loses its padding, then its last bit; `err` says whether the number of 1s
was odd. -/
def Obligations.CheckParReportsOddOnes : Prop :=
  decode 0x80#8 = .ok .checkPar ∧ KindChecked .checkPar ∧
  ∀ (s : State) (f : List Frame), s.buf = .frames f →
    (∀ x ∈ f, x.pad.toNat < x.body.length) →
    exec .checkPar s = .next (checkedState s (f.map fun x =>
      (x.body.take (x.body.length - x.pad.toNat - 1),
        decide ((x.body.take (x.body.length - x.pad.toNat)).count true % 2 = 1), false)))

/-- R100, R102, R108, R154: where a `CHECK` faults: the lowest-numbered bad frame, whose padding is
longer than its body, or which is too short to check, or (CRC) shorter than its recorded fill. -/
def Obligations.CheckFaultsAtTheFirstBadFrame : Prop :=
  ∀ (s : State) (f g : List Frame) (x : Frame), s.buf = .frames (f ++ x :: g) →
    ((∀ y ∈ f, y.pad.toNat < y.body.length) →
      (x.body.length < x.pad.toNat → exec .checkPar s = .next (faultState s 0x26#8 f.length 0)) ∧
      (x.body.length = x.pad.toNat → exec .checkPar s = .next (faultState s 0x40#8 f.length 0))) ∧
    ((∀ y ∈ f, y.pad.toNat ≤ y.body.length) →
      x.body.length < x.pad.toNat → exec .checkHam s = .next (faultState s 0x26#8 f.length 0)) ∧
    ((∀ k, k < f.length → (f.getD k default).pad.toNat + 32 + (s.filltab.getD k 0#8).toNat
        ≤ (f.getD k default).body.length) →
      (x.body.length < x.pad.toNat → exec .checkCrc s = .next (faultState s 0x26#8 f.length 0)) ∧
      (x.pad.toNat ≤ x.body.length → x.body.length < x.pad.toNat + 32 →
        exec .checkCrc s = .next (faultState s 0x40#8 f.length 0)) ∧
      (x.pad.toNat + 32 ≤ x.body.length →
        x.body.length < x.pad.toNat + 32 + (s.filltab.getD f.length 0#8).toNat →
        exec .checkCrc s = .next (faultState s 0x41#8 f.length 0)))

/-- R112: no flipped bit leaves the detection flag false, one flipped bit sets it. -/
def Obligations.ParityDetectsOneFlippedBit : Prop :=
  ∀ (s t : State) (m body : BitSeq) (pad : BitVec 8),
    s.buf = .frames [⟨m, pad⟩] → exec .protectPar s = .next t → t.buf = .frames [⟨body, 0#8⟩] →
    (∃ u, exec .checkPar t = .next u ∧ u.buf = .frames [⟨m, 0#8⟩] ∧ u.eflags = [0#2]) ∧
    ∀ j, j < body.length →
      ∃ u, exec .checkPar { t with buf := .frames [⟨body.modify j not, 0#8⟩] } = .next u ∧
        u.eflags = [1#2] ∧ u.errBit = true

/-- The division register of 42_parity_crc.md section 3, bit by bit, and the properties given there.
The generator's value is the spec's own (93_implementation_defined.md G1), notes/assumptions/12.md. -/
def Obligations.PolymodIsTheBitSerialDivider : Prop :=
  polymod [] = 0#32 ∧
  (∀ (s : BitSeq) (b : Bit), polymod (s ++ [b]) =
    (((polymod s) <<< 1) ||| (if b then 1#32 else 0#32)) ^^^
      (if (polymod s).toNat / 2 ^ 31 = 1 then 0x04C11DB7#32 else 0#32)) ∧
  (∀ s : BitSeq, s.length ≤ 32 → (polymod s).toNat = val s) ∧
  (∀ (s : BitSeq) (n : Nat), polymod (rep false n ++ s) = polymod s) ∧
  polymod (true :: rep false 32) = 0x04C11DB7#32

/-- `polymod` is the remainder of polynomial division by the generator over GF(2) (42_parity_crc.md
section 3; the generator's value is notes/assumptions/12.md). -/
def Obligations.CrcIsThePolynomialRemainder : Prop :=
  ∀ s : BitSeq, ∃ q : Polynomial (ZMod 2),
    polyOf s = q * crcGenerator + polyOf (bitsN 32 (polymod s).toNat)

/-- R106, R107: payload, filler `0,1,0,1,…` up to 64 bits, then the remainder of payload and filler
times `x^32`; the fill counts go to `FILLTAB`, the last remainder to `CRCREM`. -/
def Obligations.ProtectCrcAppendsFillAndRemainder : Prop :=
  decode 0x54#8 = .ok .protectCrc ∧ KindChecked .protectCrc ∧
  ∀ (s : State) (f : List Frame), s.buf = .frames f →
    ∃ fil : BitSeq → BitSeq,
      (∀ m, (fil m).length = 64 - m.length) ∧
      (∀ m j, j < (fil m).length → (fil m).getD j false = decide (j % 2 = 1)) ∧
      exec .protectCrc s = .next
        { doneState s (.frames (f.map fun x =>
            ⟨x.body ++ fil x.body ++ bitsN 32 (polymod (x.body ++ fil x.body ++ rep false 32)).toNat, 0#8⟩)) with
          filltab := f.map fun x => BitVec.ofNat 8 (64 - x.body.length)
          crcrem := match f.getLast? with
            | none => s.crcrem
            | some x => polymod (x.body ++ fil x.body ++ rep false 32) }

/-- R108: every frame loses its padding, its CRC field and its recorded fill (0 where there is no
record); `err` says whether the residue is nonzero; the last residue goes to `CRCREM`. -/
def Obligations.CheckCrcReportsTheResidue : Prop :=
  decode 0x84#8 = .ok .checkCrc ∧ KindChecked .checkCrc ∧
  ∀ (s : State) (f : List Frame), s.buf = .frames f →
    (∀ k, k < f.length → (f.getD k default).pad.toNat + 32 + (s.filltab.getD k 0#8).toNat
        ≤ (f.getD k default).body.length) →
    exec .checkCrc s = .next
      { checkedState s (f.mapIdx fun k x =>
          (x.body.take (x.body.length - x.pad.toNat - 32 - (s.filltab.getD k 0#8).toNat),
            decide (polymod (x.body.take (x.body.length - x.pad.toNat)) ≠ 0#32), false)) with
        crcrem := match f.getLast? with
          | none => s.crcrem
          | some x => polymod (x.body.take (x.body.length - x.pad.toNat)) }

/-- R109 (a), (b): what `PROTECT.CRC` wrote checks with residue 0 and gives the payload back; with
any single bit flipped, in payload, filler or CRC field, the residue is not 0. It rests on the
generator having a nonzero constant term and another term; its value is PRESUMED,
notes/assumptions/12.md. -/
def Obligations.CrcDetectsEverySingleFlip : Prop :=
  ∀ (s t : State) (m body : BitSeq) (pad : BitVec 8),
    s.buf = .frames [⟨m, pad⟩] → exec .protectCrc s = .next t → t.buf = .frames [⟨body, 0#8⟩] →
    (∃ u, exec .checkCrc t = .next u ∧ u.buf = .frames [⟨m, 0#8⟩] ∧ u.eflags = [0#2] ∧ u.crcrem = 0#32) ∧
    ∀ j, j < body.length →
      ∃ u, exec .checkCrc { t with buf := .frames [⟨body.modify j not, 0#8⟩] } = .next u ∧
        u.eflags = [1#2] ∧ u.errBit = true ∧ u.crcrem ≠ 0#32

/-- 42_parity_crc.md section 3, an inference the spec marks as its own (R110, derived from R105):
dividing with 32 zero bits appended gives 0 exactly when dividing without them does. It holds only for
a generator with a nonzero constant term; the generator's value is PRESUMED, notes/assumptions/12.md. -/
def Obligations.AppendedZerosDoNotChangeTheFlag : Prop :=
  ∀ x : BitSeq, polymod x = 0#32 ↔ polymod (x ++ rep false 32) = 0#32

/-- R120, R121: the codeword has `m + r` bits for the least `r` with `2^r ≥ m + r + 1`, holds the
payload in order at the positions that are no power of two, and every parity group of it is even. -/
def Obligations.ProtectHamBuildsTheCodeword : Prop :=
  decode 0x58#8 = .ok .protectHam ∧ KindChecked .protectHam ∧
  ∀ (s : State) (f : List Frame), s.buf = .frames f →
    ∃ code : BitSeq → BitSeq,
      exec .protectHam s = .next (doneState s (.frames (f.map fun x => ⟨code x.body, 0#8⟩))) ∧
      ∀ m : BitSeq, ∃ r : Nat,
        2 ^ r ≥ m.length + r + 1 ∧ (∀ q, q < r → 2 ^ q < m.length + q + 1) ∧
        (code m).length = m.length + r ∧
        (((code m).zipIdx 1).filter fun x => !isPow2 x.2).map Prod.fst = m ∧
        ∀ i, i < r → (((code m).zipIdx 1).filter fun x => x.1 && x.2.testBit i).length % 2 = 0

/-- R122: the syndrome spells the odd parity groups; 0 changes nothing, one inside the word flips
that position and sets `cor`, one outside sets `err`; the parity positions are then dropped and the
last syndrome goes to `SYN`. -/
def Obligations.CheckHamCorrectsByTheSyndrome : Prop :=
  decode 0x88#8 = .ok .checkHam ∧ KindChecked .checkHam ∧
  ∃ syn : BitSeq → Nat,
    (∀ c i, (syn c).testBit i = (decide (i < bitlen c.length) &&
      decide (((c.zipIdx 1).filter fun x => x.1 && x.2.testBit i).length % 2 = 1))) ∧
    ∀ (s : State) (f : List Frame), s.buf = .frames f → (∀ x ∈ f, x.pad.toNat ≤ x.body.length) →
      exec .checkHam s = .next
        { checkedState s (f.map fun x =>
            let c := x.body.take (x.body.length - x.pad.toNat)
            let fixed := if 0 < syn c ∧ syn c ≤ c.length then c.modify (syn c - 1) not else c
            (((fixed.zipIdx 1).filter fun y => !isPow2 y.2).map Prod.fst,
              decide (c.length < syn c), decide (0 < syn c ∧ syn c ≤ c.length))) with
          syn := match f.getLast? with
            | none => s.syn
            | some x => syn (x.body.take (x.body.length - x.pad.toNat)) }

/-- R123 (a), (b): an unmodified codeword checks with syndrome 0; with any single bit flipped the
payload still comes back, `cor` is set and `SYN` is the flipped position. -/
def Obligations.HammingCorrectsEverySingleFlip : Prop :=
  ∀ (s t : State) (m body : BitSeq) (pad : BitVec 8),
    s.buf = .frames [⟨m, pad⟩] → exec .protectHam s = .next t → t.buf = .frames [⟨body, 0#8⟩] →
    (∃ u, exec .checkHam t = .next u ∧ u.buf = .frames [⟨m, 0#8⟩] ∧ u.eflags = [0#2] ∧ u.syn = 0) ∧
    ∀ j, j < body.length →
      ∃ u, exec .checkHam { t with buf := .frames [⟨body.modify j not, 0#8⟩] } = .next u ∧
        u.buf = .frames [⟨m, 0#8⟩] ∧ u.eflags = [2#2] ∧ u.syn = j + 1 ∧
        u.errBit = false ∧ u.corBit = true

/-- R122 corner cases (a), (b): with two bits of a codeword flipped the syndrome is the xor of their
positions. Where that is a position of the word a third bit is flipped, `cor` is set, `err` is not, and
the cleaned payload is not the one sent; where it is none, nothing is flipped and `err` is set. -/
def Obligations.HammingMiscorrectsOrReportsTwoFlips : Prop :=
  ∀ (s t : State) (m body : BitSeq) (pad : BitVec 8) (i j : Nat),
    s.buf = .frames [⟨m, pad⟩] → exec .protectHam s = .next t → t.buf = .frames [⟨body, 0#8⟩] →
    i < body.length → j < body.length → i ≠ j →
    ∃ (u : State) (clean : BitSeq),
      exec .checkHam { t with buf := .frames [⟨(body.modify i not).modify j not, 0#8⟩] } = .next u ∧
      u.syn = (i + 1) ^^^ (j + 1) ∧ u.buf = .frames [⟨clean, 0#8⟩] ∧
      (u.syn ≤ body.length → u.eflags = [2#2] ∧ u.corBit = true ∧ u.errBit = false ∧
        clean = hamData (((body.modify i not).modify j not).modify (u.syn - 1) not) ∧ clean ≠ m) ∧
      (body.length < u.syn → u.eflags = [1#2] ∧ u.corBit = false ∧ u.errBit = true ∧
        clean = hamData ((body.modify i not).modify j not))

/-! ## Modulator -/

/-- 44_modulator.md section 2: 100 samples per bit, `AMP * sin(2π F t / 100)` for a 1 and 0 for a 0;
`BUF` stays. The numbers are reals, for every valuation `ν` of the names a register can hold; that
numbers are held by name and samples as formulas is the model's choice, notes/assumptions/4.md. -/
def Obligations.ModAskSamples : Prop :=
  decode 0xA0#8 = .ok .modAsk ∧ KindChecked .modAsk ∧
  ∀ (s : State) (b : BitSeq) (a f : Number), s.buf = .bits b → s.amp = some a → s.f = some f →
    ∃ l : List Sample, exec .modAsk s = .next { doneState s s.buf with sig := l } ∧
      l.length = 100 * b.length ∧
      ∀ (ν : Valuation) (k t : Nat), k < b.length → t < 100 → (l.getD (100 * k + t) .zero).value ν =
        if b.getD k false then
          ((a.value ν * Real.sin (2 * Real.pi * f.value ν * (t : ℝ) / 100) : ℝ) : ℂ)
        else 0

/-- 44_modulator.md section 2 (numbers as in notes/assumptions/4.md): 100 samples per bit of the sine
with `F1` for a 1 and `F2` for a 0; `BUF` stays. -/
def Obligations.ModFskSamples : Prop :=
  decode 0xA4#8 = .ok .modFsk ∧ KindChecked .modFsk ∧
  ∀ (s : State) (b : BitSeq) (a f1 f2 : Number),
    s.buf = .bits b → s.amp = some a → s.f1 = some f1 → s.f2 = some f2 →
    ∃ l : List Sample, exec .modFsk s = .next { doneState s s.buf with sig := l } ∧
      l.length = 100 * b.length ∧
      ∀ (ν : Valuation) (k t : Nat), k < b.length → t < 100 → (l.getD (100 * k + t) .zero).value ν =
        ((a.value ν * Real.sin (2 * Real.pi * (if b.getD k false then f1 else f2).value ν
          * (t : ℝ) / 100) : ℝ) : ℂ)

/-- 44_modulator.md section 3 (numbers as in notes/assumptions/4.md, the table as in 5.md, the
parameter as in 3.md): on a block with 8-QAM, one amplitude per bit triple (the two the source gives,
and some amplitude of the range for the others), 100 samples `a * e^(j2π FMOD t/100)` each, the
symbol count and the time axis. -/
def Obligations.ModQamSamples : Prop :=
  decode 0xA8#8 = .ok .modQam8 ∧
  ∃ table : Bit → Bit → Bit → ℂ,
    table true true true = ⟨1, 3⟩ ∧ table false false false = ⟨-1, -1⟩ ∧
    (∀ x y z, ((table x y z).re = -1 ∨ (table x y z).re = 1) ∧
      ((table x y z).im = -3 ∨ (table x y z).im = -1 ∨ (table x y z).im = 1 ∨ (table x y z).im = 3)) ∧
    ∀ (s : State) (b : BitSeq) (f : Number),
      s.hasQam8 = true → s.buf = .bits b → s.fmod = some f →
      ∃ l : List Sample,
        exec .modQam8 s = .next
          { doneState s s.buf with
            sig := l
            sigNsym := (b.length + 2) / 3
            sigTime := (List.range (100 * ((b.length + 2) / 3))).map fun (j : Nat) => (j : Rat) / 100 } ∧
        l.length = 100 * ((b.length + 2) / 3) ∧
        ∀ (ν : Valuation) (k t : Nat), k < (b.length + 2) / 3 → t < 100 →
          (l.getD (100 * k + t) .zero).value ν =
          table (b.getD (3 * k) false) (b.getD (3 * k + 1) false) (b.getD (3 * k + 2) false) *
            Complex.exp (Complex.I * ((2 * Real.pi * f.value ν * ((t : ℝ) / 100) : ℝ) : ℂ))

/-- R133: `MOD` with a needed parameter unwritten faults with the lowest number of such a register. -/
def Obligations.ModNeedsItsParameters : Prop :=
  ∀ (s : State) (b : BitSeq), s.buf = .bits b →
    (s.amp = none → exec .modAsk s = .next (faultState s 0x03#8 0 8) ∧
      exec .modFsk s = .next (faultState s 0x03#8 0 8)) ∧
    (s.amp ≠ none → s.f = none → exec .modAsk s = .next (faultState s 0x03#8 0 9)) ∧
    (s.amp ≠ none → s.f1 = none → exec .modFsk s = .next (faultState s 0x03#8 0 10)) ∧
    (s.amp ≠ none → s.f1 ≠ none → s.f2 = none → exec .modFsk s = .next (faultState s 0x03#8 0 11)) ∧
    (s.hasQam8 = true → s.fmod = none → exec .modQam8 s = .next (faultState s 0x03#8 0 12))

/-! ## A whole exchange -/

/-- R144: the receive sequence on what the transmit sequence sent gives the message back, raises no
fault and no flag, for every line, framing and error scheme, every message the framing can carry
(premises (d), (e)), and, under CRC, with `FILLTAB` conveyed, or every payload of at least 64 bits and
no fill recorded at the receiver (premise (c); R175: a stale entry would be used). Transmitter and
receiver are two instances; their other state may differ. -/
def Obligations.ReceiveInvertsTransmit : Prop :=
  ∀ (l : LineScheme) (f : FramingScheme) (e : ErrorScheme) (s : State) (b : BitSeq),
    s.buf = .bits b → Exchangeable l f e b →
    ∃ (t : State) (v : BitSeq), runCommands (txCommands l f e) s = .next t ∧ t.buf = .bits v ∧
      t.faultBit = false ∧
      ∀ u : State, u.buf = .bits v →
        (e = .crc → u.filltab = t.filltab ∨
          ((∀ c ∈ chunksOf l f b, 64 ≤ c.length) ∧ ∀ x ∈ u.filltab, x = 0#8)) →
        ∃ w, runCommands (rxCommands l f e) u = .next w ∧ w.buf = .bits b ∧
          w.faultBit = false ∧ ∀ x ∈ w.eflags, x = 0#2
end

