-- ==== Sys2Proof/Laws/Bits.lean ====
section
/-! SUPPORT. The parameters' sizes, the bit-sequence notation, cutting into pieces and the flag search. -/

namespace Sys2Proof

/-! ## The sizes that follow from the parameters -/

@[simp] theorem Config.flagBits_eq : Config.flagBits = 8 := rfl

@[simp] theorem Config.length_flag : Config.flag.length = 8 := rfl

@[simp] theorem Config.lenFieldBits_eq : Config.lenFieldBits = 8 := rfl

@[simp] theorem Config.ccHeaderBits_eq : Config.ccHeaderBits = 16 := rfl

@[simp] theorem Config.ccHeaderBytes_eq : Config.ccHeaderBytes = 2 := rfl

@[simp] theorem Config.qamBitsPerSymbol_eq : Config.qamBitsPerSymbol = 3 := rfl

@[simp] theorem Config.samplesPerBit_eq : Config.samplesPerBit = 100 := rfl

end Sys2Proof

namespace Sys2Proof.Machine

@[simp] theorem length_slice (s : BitSeq) (i j : Nat) :
    (slice s i j).length = min j s.length - i := by
  simp [slice]

@[simp] theorem length_bitsN (n v : Nat) : (bitsN n v).length = n := by
  simp [bitsN]

@[simp] theorem length_rep (b : Bit) (n : Nat) : (rep b n).length = n := by
  simp [rep]

theorem ceil8_lt (n : Nat) : ceil8 n < 8 := Nat.mod_lt _ (by decide)

theorem add_ceil8_mod (n : Nat) : (n + ceil8 n) % 8 = 0 := by
  simp only [ceil8]; omega

theorem ceil8_of_mod {n : Nat} (h : n % 8 = 0) : ceil8 n = 0 := by
  simp [ceil8, h]

@[simp] theorem length_padded (x : BitSeq) : (padded x).length = x.length + ceil8 x.length := by
  simp [padded]

/-- `val` of a sequence with one more bit. -/
theorem val_append_one (s : BitSeq) (b : Bit) : val (s ++ [b]) = 2 * val s + b.toNat := by
  simp [val]

/-- The fuel only has to be enough: a round takes `w` bits. -/
theorem piecesFrom_eq {w : Nat} (hw : 0 < w) :
    ∀ {m n : Nat} {b : BitSeq}, b.length ≤ m → b.length ≤ n → piecesFrom w m b = piecesFrom w n b
  | _, _, [], _, _ => by rename_i m n; cases m <;> cases n <;> rfl
  | m + 1, n + 1, x :: b, hm, hn => by
    simp only [piecesFrom]
    rw [piecesFrom_eq hw (m := m) (n := n)] <;>
      simp only [List.length_drop, List.length_cons] at * <;> omega

@[simp] theorem pieces_nil (w : Nat) : pieces w [] = [] := rfl

/-- One round of cutting. -/
theorem pieces_of_ne_nil {w : Nat} (hw : 0 < w) {b : BitSeq} (hb : b ≠ []) :
    pieces w b = b.take w :: pieces w (b.drop w) := by
  obtain ⟨x, c, rfl⟩ := List.exists_cons_of_ne_nil hb
  simp only [pieces, List.length_cons, piecesFrom]
  rw [piecesFrom_eq hw (n := ((x :: c).drop w).length)] <;>
    simp only [List.length_drop, List.length_cons] <;> omega

/-- The pieces concatenate to the input. -/
theorem flatten_piecesFrom {w : Nat} (hw : 0 < w) :
    ∀ (fuel : Nat) (b : BitSeq), b.length ≤ fuel → (piecesFrom w fuel b).flatten = b
  | 0, b, h => by simp_all [piecesFrom]
  | fuel + 1, [], _ => by simp [piecesFrom]
  | fuel + 1, x :: b, h => by
    have hl : ((x :: b).drop w).length ≤ fuel := by
      simp only [List.length_drop, List.length_cons] at *; omega
    simp only [piecesFrom, List.flatten_cons, flatten_piecesFrom hw fuel _ hl]
    exact List.take_append_drop w (x :: b)

theorem flatten_chunk (M : Nat) (hM : 0 < M) (b : BitSeq) : (chunk b M).flatten = b :=
  flatten_piecesFrom (by omega) _ b le_rfl

/-- A flag the search finds stands there, and none stands at an earlier place it tried. -/
theorem findFlag_some {v : BitSeq} {d : Nat} :
    ∀ {fuel q r : Nat}, findFlag v d fuel q = some r →
      flagAt v r = true ∧ r + Config.flagBits ≤ v.length ∧
        ∃ n, r = q + n * d ∧ ∀ m, m < n → flagAt v (q + m * d) = false
  | 0, q, r, h => by simp [findFlag] at h
  | fuel + 1, q, r, h => by
    simp only [findFlag] at h
    split at h
    · cases h
    · split at h
      · cases h
        exact ⟨‹_›, by omega, 0, by simp, by simp⟩
      · rename_i hne
        obtain ⟨h1, h2, n, h3, h4⟩ := findFlag_some h
        refine ⟨h1, h2, n + 1, by rw [h3]; ring, ?_⟩
        intro m hm
        rcases m with _ | m
        · simpa using hne
        · have := h4 m (by omega)
          rwa [show q + d + m * d = q + (m + 1) * d by ring] at this

/-- A search that finds nothing, with enough fuel, has tried every place that can hold a flag. -/
theorem findFlag_none {v : BitSeq} {d : Nat} (hd : 0 < d) :
    ∀ {fuel q : Nat}, v.length ≤ fuel + q → findFlag v d fuel q = none →
      ∀ n, flagAt v (q + n * d) = true → v.length < q + n * d + Config.flagBits
  | 0, q, hf, _, n, _ => by simp only [Config.flagBits_eq]; omega
  | fuel + 1, q, hf, h, n, hn => by
    simp only [findFlag] at h
    split at h
    · have : 0 ≤ n * d := Nat.zero_le _
      omega
    · split at h
      · cases h
      · rename_i hne
        rcases n with _ | n
        · simp_all
        · have := findFlag_none hd (by omega) h n (by
            rwa [show q + d + n * d = q + (n + 1) * d by ring])
          rwa [show q + d + n * d = q + (n + 1) * d by ring] at this

/-- One round of the deframing loop. -/
theorem frameLoop_step {one : Nat → Nat → Except Raise (Frame × Nat)} {n fuel k p q : Nat} {f : Frame}
    (hp : p < n) (h : one k p = .ok (f, q)) :
    frameLoop one n (fuel + 1) k p =
      match frameLoop one n fuel (k + 1) q with
      | .error r => .error r
      | .ok fs => .ok (f :: fs) := by
  cases hr : frameLoop one n fuel (k + 1) q <;> simp [frameLoop, hp, h, hr]

theorem frameLoop_error {one : Nat → Nat → Except Raise (Frame × Nat)} {n fuel k p : Nat} {r : Raise}
    (hp : p < n) (h : one k p = .error r) : frameLoop one n (fuel + 1) k p = .error r := by
  simp [frameLoop, hp, h]

theorem frameLoop_end {one : Nat → Nat → Except Raise (Frame × Nat)} {n fuel k p : Nat}
    (hp : n ≤ p) : frameLoop one n fuel k p = .ok [] := by
  cases fuel <;> simp [frameLoop, Nat.not_lt.mpr hp]

end Sys2Proof.Machine
end

