-- ==== Sys2Proof/Laws/State.lean ====
section
/-! SUPPORT. One lemma per field per update of the state, true by definition, so that no later proof
unfolds a record update. -/

namespace Sys2Proof.Machine

@[simp] theorem State.enterFault_buf (s : State) (r : Raise) :
    (s.enterFault r).buf = s.buf := rfl
@[simp] theorem State.enterFault_sig (s : State) (r : Raise) :
    (s.enterFault r).sig = s.sig := rfl
@[simp] theorem State.enterFault_sigNsym (s : State) (r : Raise) :
    (s.enterFault r).sigNsym = s.sigNsym := rfl
@[simp] theorem State.enterFault_sigTime (s : State) (r : Raise) :
    (s.enterFault r).sigTime = s.sigTime := rfl
@[simp] theorem State.enterFault_status (s : State) (r : Raise) :
    (s.enterFault r).status = statusFault s.status := rfl
@[simp] theorem State.enterFault_cause (s : State) (r : Raise) :
    (s.enterFault r).cause = r.cause.code := rfl
@[simp] theorem State.enterFault_finfo (s : State) (r : Raise) :
    (s.enterFault r).finfo = r.finfo := rfl
@[simp] theorem State.enterFault_fpos (s : State) (r : Raise) :
    (s.enterFault r).fpos = r.fpos := rfl
@[simp] theorem State.enterFault_filltab (s : State) (r : Raise) :
    (s.enterFault r).filltab = s.filltab := rfl
@[simp] theorem State.enterFault_eflags (s : State) (r : Raise) :
    (s.enterFault r).eflags = s.eflags := rfl
@[simp] theorem State.enterFault_crcrem (s : State) (r : Raise) :
    (s.enterFault r).crcrem = s.crcrem := rfl
@[simp] theorem State.enterFault_syn (s : State) (r : Raise) :
    (s.enterFault r).syn = s.syn := rfl
@[simp] theorem State.enterFault_amp (s : State) (r : Raise) :
    (s.enterFault r).amp = s.amp := rfl
@[simp] theorem State.enterFault_f (s : State) (r : Raise) :
    (s.enterFault r).f = s.f := rfl
@[simp] theorem State.enterFault_f1 (s : State) (r : Raise) :
    (s.enterFault r).f1 = s.f1 := rfl
@[simp] theorem State.enterFault_f2 (s : State) (r : Raise) :
    (s.enterFault r).f2 = s.f2 := rfl
@[simp] theorem State.enterFault_fmod (s : State) (r : Raise) :
    (s.enterFault r).fmod = s.fmod := rfl
@[simp] theorem State.enterFault_hasQam8 (s : State) (r : Raise) :
    (s.enterFault r).hasQam8 = s.hasQam8 := rfl
@[simp] theorem State.enterFault_host (s : State) (r : Raise) :
    (s.enterFault r).host = s.host := rfl
@[simp] theorem State.enterFault_readLog (s : State) (r : Raise) :
    (s.enterFault r).readLog = s.readLog := rfl
@[simp] theorem State.enterFault_freeCount (s : State) (r : Raise) :
    (s.enterFault r).freeCount = s.freeCount := rfl

@[simp] theorem State.complete_buf (s : State) (err cor : Bool) :
    (s.complete err cor).buf = s.buf := rfl
@[simp] theorem State.complete_sig (s : State) (err cor : Bool) :
    (s.complete err cor).sig = s.sig := rfl
@[simp] theorem State.complete_sigNsym (s : State) (err cor : Bool) :
    (s.complete err cor).sigNsym = s.sigNsym := rfl
@[simp] theorem State.complete_sigTime (s : State) (err cor : Bool) :
    (s.complete err cor).sigTime = s.sigTime := rfl
@[simp] theorem State.complete_status (s : State) (err cor : Bool) :
    (s.complete err cor).status = statusDone s.status err cor := rfl
@[simp] theorem State.complete_cause (s : State) (err cor : Bool) :
    (s.complete err cor).cause = 0#8 := rfl
@[simp] theorem State.complete_finfo (s : State) (err cor : Bool) :
    (s.complete err cor).finfo = 0 := rfl
@[simp] theorem State.complete_fpos (s : State) (err cor : Bool) :
    (s.complete err cor).fpos = 0 := rfl
@[simp] theorem State.complete_filltab (s : State) (err cor : Bool) :
    (s.complete err cor).filltab = s.filltab := rfl
@[simp] theorem State.complete_eflags (s : State) (err cor : Bool) :
    (s.complete err cor).eflags = s.eflags := rfl
@[simp] theorem State.complete_crcrem (s : State) (err cor : Bool) :
    (s.complete err cor).crcrem = s.crcrem := rfl
@[simp] theorem State.complete_syn (s : State) (err cor : Bool) :
    (s.complete err cor).syn = s.syn := rfl
@[simp] theorem State.complete_amp (s : State) (err cor : Bool) :
    (s.complete err cor).amp = s.amp := rfl
@[simp] theorem State.complete_f (s : State) (err cor : Bool) :
    (s.complete err cor).f = s.f := rfl
@[simp] theorem State.complete_f1 (s : State) (err cor : Bool) :
    (s.complete err cor).f1 = s.f1 := rfl
@[simp] theorem State.complete_f2 (s : State) (err cor : Bool) :
    (s.complete err cor).f2 = s.f2 := rfl
@[simp] theorem State.complete_fmod (s : State) (err cor : Bool) :
    (s.complete err cor).fmod = s.fmod := rfl
@[simp] theorem State.complete_hasQam8 (s : State) (err cor : Bool) :
    (s.complete err cor).hasQam8 = s.hasQam8 := rfl
@[simp] theorem State.complete_host (s : State) (err cor : Bool) :
    (s.complete err cor).host = s.host := rfl
@[simp] theorem State.complete_readLog (s : State) (err cor : Bool) :
    (s.complete err cor).readLog = s.readLog := rfl
@[simp] theorem State.complete_freeCount (s : State) (err cor : Bool) :
    (s.complete err cor).freeCount = s.freeCount := rfl

@[simp] theorem State.finish_buf (s : State) (b : Buf) :
    (s.finish b).buf = b := rfl
@[simp] theorem State.finish_sig (s : State) (b : Buf) :
    (s.finish b).sig = s.sig := rfl
@[simp] theorem State.finish_sigNsym (s : State) (b : Buf) :
    (s.finish b).sigNsym = s.sigNsym := rfl
@[simp] theorem State.finish_sigTime (s : State) (b : Buf) :
    (s.finish b).sigTime = s.sigTime := rfl
@[simp] theorem State.finish_status (s : State) (b : Buf) :
    (s.finish b).status = statusDone s.status false false := rfl
@[simp] theorem State.finish_cause (s : State) (b : Buf) :
    (s.finish b).cause = 0#8 := rfl
@[simp] theorem State.finish_finfo (s : State) (b : Buf) :
    (s.finish b).finfo = 0 := rfl
@[simp] theorem State.finish_fpos (s : State) (b : Buf) :
    (s.finish b).fpos = 0 := rfl
@[simp] theorem State.finish_filltab (s : State) (b : Buf) :
    (s.finish b).filltab = s.filltab := rfl
@[simp] theorem State.finish_eflags (s : State) (b : Buf) :
    (s.finish b).eflags = s.eflags := rfl
@[simp] theorem State.finish_crcrem (s : State) (b : Buf) :
    (s.finish b).crcrem = s.crcrem := rfl
@[simp] theorem State.finish_syn (s : State) (b : Buf) :
    (s.finish b).syn = s.syn := rfl
@[simp] theorem State.finish_amp (s : State) (b : Buf) :
    (s.finish b).amp = s.amp := rfl
@[simp] theorem State.finish_f (s : State) (b : Buf) :
    (s.finish b).f = s.f := rfl
@[simp] theorem State.finish_f1 (s : State) (b : Buf) :
    (s.finish b).f1 = s.f1 := rfl
@[simp] theorem State.finish_f2 (s : State) (b : Buf) :
    (s.finish b).f2 = s.f2 := rfl
@[simp] theorem State.finish_fmod (s : State) (b : Buf) :
    (s.finish b).fmod = s.fmod := rfl
@[simp] theorem State.finish_hasQam8 (s : State) (b : Buf) :
    (s.finish b).hasQam8 = s.hasQam8 := rfl
@[simp] theorem State.finish_host (s : State) (b : Buf) :
    (s.finish b).host = s.host := rfl
@[simp] theorem State.finish_readLog (s : State) (b : Buf) :
    (s.finish b).readLog = s.readLog := rfl
@[simp] theorem State.finish_freeCount (s : State) (b : Buf) :
    (s.finish b).freeCount = s.freeCount := rfl

@[simp] theorem State.finishMod_buf (s : State) (l : List Sample) :
    (s.finishMod l).buf = s.buf := rfl
@[simp] theorem State.finishMod_sig (s : State) (l : List Sample) :
    (s.finishMod l).sig = l := rfl
@[simp] theorem State.finishMod_sigNsym (s : State) (l : List Sample) :
    (s.finishMod l).sigNsym = s.sigNsym := rfl
@[simp] theorem State.finishMod_sigTime (s : State) (l : List Sample) :
    (s.finishMod l).sigTime = s.sigTime := rfl
@[simp] theorem State.finishMod_status (s : State) (l : List Sample) :
    (s.finishMod l).status = statusDone s.status false false := rfl
@[simp] theorem State.finishMod_cause (s : State) (l : List Sample) :
    (s.finishMod l).cause = 0#8 := rfl
@[simp] theorem State.finishMod_finfo (s : State) (l : List Sample) :
    (s.finishMod l).finfo = 0 := rfl
@[simp] theorem State.finishMod_fpos (s : State) (l : List Sample) :
    (s.finishMod l).fpos = 0 := rfl
@[simp] theorem State.finishMod_filltab (s : State) (l : List Sample) :
    (s.finishMod l).filltab = s.filltab := rfl
@[simp] theorem State.finishMod_eflags (s : State) (l : List Sample) :
    (s.finishMod l).eflags = s.eflags := rfl
@[simp] theorem State.finishMod_crcrem (s : State) (l : List Sample) :
    (s.finishMod l).crcrem = s.crcrem := rfl
@[simp] theorem State.finishMod_syn (s : State) (l : List Sample) :
    (s.finishMod l).syn = s.syn := rfl
@[simp] theorem State.finishMod_amp (s : State) (l : List Sample) :
    (s.finishMod l).amp = s.amp := rfl
@[simp] theorem State.finishMod_f (s : State) (l : List Sample) :
    (s.finishMod l).f = s.f := rfl
@[simp] theorem State.finishMod_f1 (s : State) (l : List Sample) :
    (s.finishMod l).f1 = s.f1 := rfl
@[simp] theorem State.finishMod_f2 (s : State) (l : List Sample) :
    (s.finishMod l).f2 = s.f2 := rfl
@[simp] theorem State.finishMod_fmod (s : State) (l : List Sample) :
    (s.finishMod l).fmod = s.fmod := rfl
@[simp] theorem State.finishMod_hasQam8 (s : State) (l : List Sample) :
    (s.finishMod l).hasQam8 = s.hasQam8 := rfl
@[simp] theorem State.finishMod_host (s : State) (l : List Sample) :
    (s.finishMod l).host = s.host := rfl
@[simp] theorem State.finishMod_readLog (s : State) (l : List Sample) :
    (s.finishMod l).readLog = s.readLog := rfl
@[simp] theorem State.finishMod_freeCount (s : State) (l : List Sample) :
    (s.finishMod l).freeCount = s.freeCount := rfl

@[simp] theorem State.finishCheck_buf (s : State) (rs : List Checked) :
    (s.finishCheck rs).buf = .frames (rs.map fun r => ⟨r.clean, 0#8⟩) := rfl
@[simp] theorem State.finishCheck_sig (s : State) (rs : List Checked) :
    (s.finishCheck rs).sig = s.sig := rfl
@[simp] theorem State.finishCheck_sigNsym (s : State) (rs : List Checked) :
    (s.finishCheck rs).sigNsym = s.sigNsym := rfl
@[simp] theorem State.finishCheck_sigTime (s : State) (rs : List Checked) :
    (s.finishCheck rs).sigTime = s.sigTime := rfl
@[simp] theorem State.finishCheck_status (s : State) (rs : List Checked) :
    (s.finishCheck rs).status = statusDone s.status (rs.any Checked.err) (rs.any Checked.cor) := rfl
@[simp] theorem State.finishCheck_cause (s : State) (rs : List Checked) :
    (s.finishCheck rs).cause = 0#8 := rfl
@[simp] theorem State.finishCheck_finfo (s : State) (rs : List Checked) :
    (s.finishCheck rs).finfo = 0 := rfl
@[simp] theorem State.finishCheck_fpos (s : State) (rs : List Checked) :
    (s.finishCheck rs).fpos = 0 := rfl
@[simp] theorem State.finishCheck_filltab (s : State) (rs : List Checked) :
    (s.finishCheck rs).filltab = s.filltab := rfl
@[simp] theorem State.finishCheck_eflags (s : State) (rs : List Checked) :
    (s.finishCheck rs).eflags = rs.map fun r => eflag r.err r.cor := rfl
@[simp] theorem State.finishCheck_crcrem (s : State) (rs : List Checked) :
    (s.finishCheck rs).crcrem = s.crcrem := rfl
@[simp] theorem State.finishCheck_syn (s : State) (rs : List Checked) :
    (s.finishCheck rs).syn = s.syn := rfl
@[simp] theorem State.finishCheck_amp (s : State) (rs : List Checked) :
    (s.finishCheck rs).amp = s.amp := rfl
@[simp] theorem State.finishCheck_f (s : State) (rs : List Checked) :
    (s.finishCheck rs).f = s.f := rfl
@[simp] theorem State.finishCheck_f1 (s : State) (rs : List Checked) :
    (s.finishCheck rs).f1 = s.f1 := rfl
@[simp] theorem State.finishCheck_f2 (s : State) (rs : List Checked) :
    (s.finishCheck rs).f2 = s.f2 := rfl
@[simp] theorem State.finishCheck_fmod (s : State) (rs : List Checked) :
    (s.finishCheck rs).fmod = s.fmod := rfl
@[simp] theorem State.finishCheck_hasQam8 (s : State) (rs : List Checked) :
    (s.finishCheck rs).hasQam8 = s.hasQam8 := rfl
@[simp] theorem State.finishCheck_host (s : State) (rs : List Checked) :
    (s.finishCheck rs).host = s.host := rfl
@[simp] theorem State.finishCheck_readLog (s : State) (rs : List Checked) :
    (s.finishCheck rs).readLog = s.readLog := rfl
@[simp] theorem State.finishCheck_freeCount (s : State) (rs : List Checked) :
    (s.finishCheck rs).freeCount = s.freeCount := rfl

@[simp] theorem State.withFetchWord_host (s : State) (n w : Nat) :
    (s.withFetchWord n w).host = .write (.cmd (BitVec.ofNat 8 w)) :: s.host := rfl
@[simp] theorem State.withFetchWord_buf (s : State) (n w : Nat) : (s.withFetchWord n w).buf = s.buf := rfl

end Sys2Proof.Machine
end

