-- ==== Sys2Proof/Laws/Ops.lean ====
section
/-! SUPPORT. What each shared operation can do, said once: how a command ends, the operand forms, and
the frame-by-frame fold. -/

namespace Sys2Proof.Machine

/-! ## How a command ends -/

@[simp] theorem statusDone_quiet (x : BitVec 8) : statusDone x false false = x &&& 0xF8#8 := by
  simp [statusDone]

theorem finish_eq_doneState (s : State) (b : Buf) : s.finish b = doneState s b := by
  simp [State.finish, State.complete, doneState]

theorem enterFault_eq_faultState (s : State) (r : Raise) :
    s.enterFault r = faultState s r.cause.code r.finfo r.fpos := rfl

theorem finishMod_eq_doneState (s : State) (l : List Sample) :
    s.finishMod l = { doneState s s.buf with sig := l } := by
  simp [State.finishMod, State.complete, doneState]

/-- A command ends as its pseudocode computed, or by fault entry. -/
theorem settle_next {s t : State} {x : Except Raise State} (h : s.settle x = .next t) :
    x = .ok t ∨ ∃ r, x = .error r ∧ t = s.enterFault r := by
  cases x with
  | ok u => exact .inl (by simpa [State.settle] using h)
  | error r => exact .inr ⟨r, rfl, by simpa [State.settle] using h.symm⟩

@[simp] theorem settle_ok (s t : State) : s.settle (.ok t) = .next t := rfl

@[simp] theorem settle_error (s : State) (r : Raise) : s.settle (.error r) = .next (s.enterFault r) := rfl

theorem settle_has_next (s : State) (x : Except Raise State) : ∃ t, s.settle x = .next t := by
  cases x <;> exact ⟨_, rfl⟩

/-! ## Status bits -/

theorem statusFault_bits (x : BitVec 8) :
    (statusFault x).getLsbD 0 = true ∧ (statusFault x).getLsbD 1 = false ∧
      (statusFault x).getLsbD 2 = false ∧ (statusFault x).getLsbD 3 = true := by
  simp [statusFault]

theorem statusDone_bits (x : BitVec 8) (err cor : Bool) :
    (statusDone x err cor).getLsbD 0 = false ∧ (statusDone x err cor).getLsbD 1 = err ∧
      (statusDone x err cor).getLsbD 2 = cor ∧ (statusDone x err cor).getLsbD 3 = x.getLsbD 3 := by
  cases err <;> cases cor <;> simp [statusDone]

@[simp] theorem enterFault_faultBit (s : State) (r : Raise) : (s.enterFault r).faultBit = true :=
  (statusFault_bits s.status).1

@[simp] theorem enterFault_sfBit (s : State) (r : Raise) : (s.enterFault r).sfBit = true :=
  (statusFault_bits s.status).2.2.2

@[simp] theorem complete_faultBit (s : State) (err cor : Bool) : (s.complete err cor).faultBit = false :=
  (statusDone_bits s.status err cor).1

@[simp] theorem complete_sfBit (s : State) (err cor : Bool) : (s.complete err cor).sfBit = s.sfBit :=
  (statusDone_bits s.status err cor).2.2.2

@[simp] theorem doneState_faultBit (s : State) (b : Buf) : (doneState s b).faultBit = false := by
  simp [doneState, State.faultBit]

/-- Ending twice is ending once: only the last `BUF` is left. -/
@[simp] theorem doneState_doneState (s : State) (a b : Buf) :
    doneState (doneState s a) b = doneState s b := by
  simp [doneState, BitVec.and_assoc]

@[simp] theorem doneState_buf (s : State) (b : Buf) : (doneState s b).buf = b := rfl

/-! ## Operand forms -/

theorem onBits_of_bits {s : State} {b : BitSeq} (h : s.buf = .bits b)
    (g : BitSeq → Except Raise State) : onBits s g = s.settle (g b) := by
  simp [onBits, h]

theorem onSyms_of_syms {s : State} {y : List SymCode} (h : s.buf = .syms y)
    (g : List SymCode → Except Raise State) : onSyms s g = s.settle (g y) := by
  simp [onSyms, h]

theorem onFrames_of_frames {s : State} {f : List Frame} (h : s.buf = .frames f)
    (g : List Frame → Except Raise State) : onFrames s g = s.settle (g f) := by
  simp [onFrames, h]

theorem onBits_of_other {s : State} (h : s.buf.kind ≠ .bits) (g : BitSeq → Except Raise State) :
    onBits s g = .next (faultState s 0x02#8 0 0) := by
  cases hb : s.buf <;> simp_all [onBits, Buf.kind] <;> rfl

theorem onSyms_of_other {s : State} (h : s.buf.kind ≠ .syms) (g : List SymCode → Except Raise State) :
    onSyms s g = .next (faultState s 0x02#8 0 0) := by
  cases hb : s.buf <;> simp_all [onSyms, Buf.kind] <;> rfl

theorem onFrames_of_other {s : State} (h : s.buf.kind ≠ .frames)
    (g : List Frame → Except Raise State) : onFrames s g = .next (faultState s 0x02#8 0 0) := by
  cases hb : s.buf <;> simp_all [onFrames, Buf.kind] <;> rfl

/-- What a BITS command can do: its own effect on the bits it read, or a fault entry. -/
theorem onBits_next {s t : State} {g : BitSeq → Except Raise State} (h : onBits s g = .next t) :
    (∃ b, s.buf = .bits b ∧ g b = .ok t) ∨ ∃ r, t = s.enterFault r := by
  cases hb : s.buf with
  | bits b =>
    rw [onBits_of_bits hb] at h
    rcases settle_next h with h | ⟨r, -, h⟩
    · exact .inl ⟨b, rfl, h⟩
    · exact .inr ⟨r, h⟩
  | syms y => exact .inr ⟨kindMismatch, by simpa [onBits, hb] using h.symm⟩
  | frames f => exact .inr ⟨kindMismatch, by simpa [onBits, hb] using h.symm⟩

/-- What a SYMS command can do. -/
theorem onSyms_next {s t : State} {g : List SymCode → Except Raise State} (h : onSyms s g = .next t) :
    (∃ y, s.buf = .syms y ∧ g y = .ok t) ∨ ∃ r, t = s.enterFault r := by
  cases hb : s.buf with
  | syms y =>
    rw [onSyms_of_syms hb] at h
    rcases settle_next h with h | ⟨r, -, h⟩
    · exact .inl ⟨y, rfl, h⟩
    · exact .inr ⟨r, h⟩
  | bits b => exact .inr ⟨kindMismatch, by simpa [onSyms, hb] using h.symm⟩
  | frames f => exact .inr ⟨kindMismatch, by simpa [onSyms, hb] using h.symm⟩

/-- What a FRAMES command can do. -/
theorem onFrames_next {s t : State} {g : List Frame → Except Raise State} (h : onFrames s g = .next t) :
    (∃ f, s.buf = .frames f ∧ g f = .ok t) ∨ ∃ r, t = s.enterFault r := by
  cases hb : s.buf with
  | frames f =>
    rw [onFrames_of_frames hb] at h
    rcases settle_next h with h | ⟨r, -, h⟩
    · exact .inl ⟨f, rfl, h⟩
    · exact .inr ⟨r, h⟩
  | bits b => exact .inr ⟨kindMismatch, by simpa [onFrames, hb] using h.symm⟩
  | syms y => exact .inr ⟨kindMismatch, by simpa [onFrames, hb] using h.symm⟩

/-! ## Frame by frame -/

/-- When every frame succeeds, the results are the frames' own, in order. -/
theorem forFrames_ok {α : Type} {g : Nat → Frame → Except Raise α} {h : Nat → Frame → α} :
    ∀ (k : Nat) (f : List Frame),
      (∀ j (x : Frame), f[j]? = some x → g (k + j) x = .ok (h (k + j) x)) →
      forFrames g k f = .ok (f.mapIdx fun j x => h (k + j) x)
  | _, [], _ => rfl
  | k, x :: fs, hx => by
    have h0 := hx 0 x rfl
    have hs := forFrames_ok (g := g) (h := h) (k + 1) fs fun j y hy => by
      have := hx (j + 1) y (by simpa using hy)
      rwa [show k + (j + 1) = k + 1 + j by omega] at this
    simp only [Nat.add_zero] at h0
    simp only [forFrames, h0, hs, List.mapIdx_cons, Nat.add_zero]
    congr 2
    apply List.ext_getElem (by simp)
    intro j h1 h2
    simp [show k + (j + 1) = k + 1 + j by omega]

/-- The first frame that raises decides the outcome. -/
theorem forFrames_error {α : Type} {g : Nat → Frame → Except Raise α} {r : Raise} {x : Frame}
    {fs : List Frame} :
    ∀ (k : Nat) (f : List Frame),
      (∀ j (y : Frame), f[j]? = some y → ∃ a, g (k + j) y = .ok a) →
      g (k + f.length) x = .error r → forFrames g k (f ++ x :: fs) = .error r
  | k, [], _, hr => by simp_all [forFrames]
  | k, y :: f, hy, hr => by
    obtain ⟨a, ha⟩ := hy 0 y rfl
    have := forFrames_error (g := g) (r := r) (x := x) (fs := fs) (k + 1) f
      (fun j z hz => by
        have := hy (j + 1) z (by simpa using hz)
        rwa [show k + (j + 1) = k + 1 + j by omega] at this)
      (by simpa [show k + (f.length + 1) = k + 1 + f.length by omega] using hr)
    simp only [Nat.add_zero] at ha
    simp [forFrames, ha, this]

/-- As many results as frames. -/
theorem forFrames_length {α : Type} {g : Nat → Frame → Except Raise α} :
    ∀ {k : Nat} {f : List Frame} {l : List α}, forFrames g k f = .ok l → l.length = f.length
  | _, [], l, h => by simp_all [forFrames]
  | k, x :: fs, l, h => by
    simp only [forFrames] at h
    split at h
    · cases h
    · split at h
      · cases h
      · rename_i hfs
        cases h
        simp [forFrames_length hfs]

theorem stripPad_ok {k : Nat} {f : Frame} (h : f.pad.toNat ≤ f.body.length) :
    stripPad k f = .ok (f.body.take (f.body.length - f.pad.toNat)) := by
  simp [stripPad, slice, Nat.not_lt.mpr h]

theorem stripPad_error {k : Nat} {f : Frame} (h : f.body.length < f.pad.toNat) :
    stripPad k f = .error ⟨.padExceedsBody, k, 0⟩ := by
  simp [stripPad, h]

/-! ## No command reads `SIG` -/

theorem settle_ignores_sig {s t : State} {x : Except Raise State} (l : List Sample)
    (h : s.settle x = .next t) :
    ({ s with sig := l } : State).settle (x.map fun u => { u with sig := l }) =
      .next { t with sig := l } := by
  cases x <;> cases h <;> rfl

theorem onBits_ignores_sig {s t : State} {g g' : BitSeq → Except Raise State} {l : List Sample}
    (hg : ∀ b, g' b = (g b).map fun u => { u with sig := l }) (h : onBits s g = .next t) :
    onBits { s with sig := l } g' = .next { t with sig := l } := by
  have := settle_ignores_sig l h
  cases hb : s.buf <;> simp_all [onBits, Except.map]

theorem onSyms_ignores_sig {s t : State} {g g' : List SymCode → Except Raise State} {l : List Sample}
    (hg : ∀ y, g' y = (g y).map fun u => { u with sig := l }) (h : onSyms s g = .next t) :
    onSyms { s with sig := l } g' = .next { t with sig := l } := by
  have := settle_ignores_sig l h
  cases hb : s.buf <;> simp_all [onSyms, Except.map]

theorem onFrames_ignores_sig {s t : State} {g g' : List Frame → Except Raise State} {l : List Sample}
    (hg : ∀ f, g' f = (g f).map fun u => { u with sig := l }) (h : onFrames s g = .next t) :
    onFrames { s with sig := l } g' = .next { t with sig := l } := by
  have := settle_ignores_sig l h
  cases hb : s.buf <;> simp_all [onFrames, Except.map]

/-- A command other than `MOD` does the same whatever `SIG` holds (44_modulator.md R135). -/
theorem exec_ignores_sig {i : Instr} (hi : i.op ≠ .mod) {s t : State} (l : List Sample)
    (h : exec i s = .next t) : exec i { s with sig := l } = .next { t with sig := l } := by
  cases i <;> first
    | exact absurd rfl hi
    | exact onBits_ignores_sig (fun _ => rfl) h
    | exact onSyms_ignores_sig (fun _ => rfl) h
    | exact onFrames_ignores_sig (fun _ => rfl) h
    | (refine onBits_ignores_sig (fun b => ?_) h; split <;> rfl)
    | (refine onFrames_ignores_sig (fun f => ?_) h
       first
         | cases forFrames wrapCcFrame 0 f <;> rfl
         | cases forFrames checkParFrame 0 f <;> rfl
         | (dsimp only; cases forFrames (checkCrcFrame s.filltab) 0 f <;> rfl)
         | cases forFrames checkHamFrame 0 f <;> rfl)
    | (refine onBits_ignores_sig (fun v => ?_) h
       first
         | cases deframeCc v <;> rfl
         | cases deframeByte v <;> rfl
         | cases deframeBit v <;> rfl
         | cases deframeBith v <;> rfl)

/-- A `MOD` that ends without fault writes `SIG` whole, whatever it held (44_modulator.md R134). -/
theorem mod_ignores_sig {i : Instr} (hi : i.op = .mod) {s t : State} (l : List Sample)
    (h : exec i s = .next t) (ht : t.faultBit = false) : exec i { s with sig := l } = .next t := by
  rcases s with ⟨buf, _, _, _, _, _, _, _, _, _, _, _, amp, f, f1, f2, fm, hq, _, _, _⟩
  have hf : ∀ (s : State) (r : Raise), s.enterFault r = t → False := by
    rintro s r rfl
    simp at ht
  cases i <;> first
    | exact absurd hi (by decide)
    | (cases buf <;> cases amp <;> cases f <;> cases f1 <;> cases f2 <;> cases fm <;> cases hq <;> first
        | exact h
        | (cases h; exact (hf _ _ rfl).elim))

/-! ## The host -/

theorem step_idle {s : State} (h : s.host = []) : step s = .next s := by
  simp [step, hostStep, h]

theorem step_act {s : State} {a : HostAction} {rest : List HostAction} (h : s.host = a :: rest) :
    step s = hostAct { s with host := rest } a := by
  simp [step, hostStep, h]

end Sys2Proof.Machine
end

