-- ==== Sys2Proof/Laws/PerInstr.lean ====
section
/-! SUPPORT. Per command: its word has legal fields (R45 to R49). -/

namespace Sys2Proof.Laws

/-- The word of the command passes every check of WellFormed.lean, and is of its own operation. -/
def Encoding.Statement (i : Instr) : Prop :=
  (fieldsOf (encode i)).wellFormed = true ∧ (fieldsOf (encode i)).op = opCode i.op

theorem Encoding.lencNrz : Encoding.Statement .lencNrz := by
  unfold Encoding.Statement; decide

theorem Encoding.lencMan : Encoding.Statement .lencMan := by
  unfold Encoding.Statement; decide

theorem Encoding.lencAmi : Encoding.Statement .lencAmi := by
  unfold Encoding.Statement; decide

theorem Encoding.ldecNrz : Encoding.Statement .ldecNrz := by
  unfold Encoding.Statement; decide

theorem Encoding.ldecMan : Encoding.Statement .ldecMan := by
  unfold Encoding.Statement; decide

theorem Encoding.ldecAmi : Encoding.Statement .ldecAmi := by
  unfold Encoding.Statement; decide

theorem Encoding.lmapNrz : Encoding.Statement .lmapNrz := by
  unfold Encoding.Statement; decide

theorem Encoding.lmapMan : Encoding.Statement .lmapMan := by
  unfold Encoding.Statement; decide

theorem Encoding.lmapAmi : Encoding.Statement .lmapAmi := by
  unfold Encoding.Statement; decide

theorem Encoding.splitCc : Encoding.Statement .splitCc := by
  unfold Encoding.Statement; decide

theorem Encoding.splitByte : Encoding.Statement .splitByte := by
  unfold Encoding.Statement; decide

theorem Encoding.splitBit : Encoding.Statement .splitBit := by
  unfold Encoding.Statement; decide

theorem Encoding.protectPar : Encoding.Statement .protectPar := by
  unfold Encoding.Statement; decide

theorem Encoding.protectCrc : Encoding.Statement .protectCrc := by
  unfold Encoding.Statement; decide

theorem Encoding.protectHam : Encoding.Statement .protectHam := by
  unfold Encoding.Statement; decide

theorem Encoding.wrapCc : Encoding.Statement .wrapCc := by
  unfold Encoding.Statement; decide

theorem Encoding.wrapByte : Encoding.Statement .wrapByte := by
  unfold Encoding.Statement; decide

theorem Encoding.wrapBit : Encoding.Statement .wrapBit := by
  unfold Encoding.Statement; decide

theorem Encoding.wrapBith : Encoding.Statement .wrapBith := by
  unfold Encoding.Statement; decide

theorem Encoding.deframeCc : Encoding.Statement .deframeCc := by
  unfold Encoding.Statement; decide

theorem Encoding.deframeByte : Encoding.Statement .deframeByte := by
  unfold Encoding.Statement; decide

theorem Encoding.deframeBit : Encoding.Statement .deframeBit := by
  unfold Encoding.Statement; decide

theorem Encoding.deframeBith : Encoding.Statement .deframeBith := by
  unfold Encoding.Statement; decide

theorem Encoding.checkPar : Encoding.Statement .checkPar := by
  unfold Encoding.Statement; decide

theorem Encoding.checkCrc : Encoding.Statement .checkCrc := by
  unfold Encoding.Statement; decide

theorem Encoding.checkHam : Encoding.Statement .checkHam := by
  unfold Encoding.Statement; decide

theorem Encoding.join : Encoding.Statement .join := by
  unfold Encoding.Statement; decide

theorem Encoding.modAsk : Encoding.Statement .modAsk := by
  unfold Encoding.Statement; decide

theorem Encoding.modFsk : Encoding.Statement .modFsk := by
  unfold Encoding.Statement; decide

theorem Encoding.modQam8 : Encoding.Statement .modQam8 := by
  unfold Encoding.Statement; decide

end Sys2Proof.Laws
end

