-- ==== Sys2Proof/Tests/Slice0.lean ====
section
/-! SUPPORT. The model's own tests: the WellFormed checks each refuse an ill-formed word, every row of
the opcode map decodes, the vectors of spec 95_test_vectors.md (their numbers V.. are in the names),
and for every statement a concrete state that meets its hypotheses (witness_..). -/

namespace Sys2Proof.Tests

open Machine

/-! ## Helpers -/

/-- The reset state with a given buffer. -/
def onBuf (b : Buf) : State := { State.reset with buf := b }

/-- The reset state with a bit string of `n` bits spelled by a number. -/
def onWord (n v : Nat) : State := onBuf (.bits (bitsN n v))

/-- The reset state with octets. -/
def onBytes (l : List Nat) : State := onBuf (.bits (bitsOfBytes l))

/-- The reset state with one frame. -/
def onFrame (x : BitSeq) (pad : Nat) : State := onBuf (.frames [⟨x, BitVec.ofNat 8 pad⟩])

/-- The reset state with something for the host to do. -/
def withHost (l : List HostAction) : State := { State.reset with host := l }

/-- The buffer a command leaves. -/
def bufAfter (i : Instr) (s : State) : Option Buf := (nextState? (exec i s)).map State.buf

/-- `STATUS`, `CAUSE`, `FINFO`, `FPOS` a command leaves. -/
def statusAfter (i : Instr) (s : State) : Option (Nat × Nat × Nat × Nat) :=
  (nextState? (exec i s)).map fun t => (t.status.toNat, t.cause.toNat, t.finfo, t.fpos)

/-- "Hi" (95_test_vectors.md). -/
def hi : BitSeq := bitsN 16 0x4869

/-! ## WellFormed: one ill-formed word per check (30_encoding.md R46 to R49) -/

theorem test_wf_good : CmdFields.wellFormed ⟨6#4, 2#2, 0#1, 1#1⟩ = true := by decide
theorem test_wf_op_zero : CmdFields.opOk ⟨0#4, 0#2, 0#1, 0#1⟩ = false := by decide
theorem test_wf_op_eleven : CmdFields.wellFormed ⟨11#4, 0#2, 0#1, 0#1⟩ = false := by decide
theorem test_wf_sch_three : CmdFields.schOk ⟨1#4, 3#2, 0#1, 0#1⟩ = false := by decide
theorem test_wf_sch_join : CmdFields.schOk ⟨9#4, 1#2, 0#1, 0#1⟩ = false := by decide
theorem test_wf_z : CmdFields.zOk ⟨1#4, 0#2, 1#1, 0#1⟩ = false := by decide
theorem test_wf_h : CmdFields.hOk ⟨6#4, 0#2, 0#1, 1#1⟩ = false := by decide
theorem test_wf_qam_absent : Instr.wellFormed false .modQam8 = false := by decide
theorem test_wf_qam_present : Instr.wellFormed true .modQam8 = true := by decide

/-! ## Decoding: the words of 30_encoding.md section 2, field by field `op sch z h` -/

theorem test_decode_lencNrz : decode (1#4 ++ 0#2 ++ 0#1 ++ 0#1) = .ok .lencNrz := by decide
theorem test_decode_lencMan : decode (1#4 ++ 1#2 ++ 0#1 ++ 0#1) = .ok .lencMan := by decide
theorem test_decode_lencAmi : decode (1#4 ++ 2#2 ++ 0#1 ++ 0#1) = .ok .lencAmi := by decide
theorem test_decode_ldecNrz : decode (2#4 ++ 0#2 ++ 0#1 ++ 0#1) = .ok .ldecNrz := by decide
theorem test_decode_ldecMan : decode (2#4 ++ 1#2 ++ 0#1 ++ 0#1) = .ok .ldecMan := by decide
theorem test_decode_ldecAmi : decode (2#4 ++ 2#2 ++ 0#1 ++ 0#1) = .ok .ldecAmi := by decide
theorem test_decode_lmapNrz : decode (3#4 ++ 0#2 ++ 0#1 ++ 0#1) = .ok .lmapNrz := by decide
theorem test_decode_lmapMan : decode (3#4 ++ 1#2 ++ 0#1 ++ 0#1) = .ok .lmapMan := by decide
theorem test_decode_lmapAmi : decode (3#4 ++ 2#2 ++ 0#1 ++ 0#1) = .ok .lmapAmi := by decide
theorem test_decode_splitCc : decode (4#4 ++ 0#2 ++ 0#1 ++ 0#1) = .ok .splitCc := by decide
theorem test_decode_splitByte : decode (4#4 ++ 1#2 ++ 0#1 ++ 0#1) = .ok .splitByte := by decide
theorem test_decode_splitBit : decode (4#4 ++ 2#2 ++ 0#1 ++ 0#1) = .ok .splitBit := by decide
theorem test_decode_protectPar : decode (5#4 ++ 0#2 ++ 0#1 ++ 0#1) = .ok .protectPar := by decide
theorem test_decode_protectCrc : decode (5#4 ++ 1#2 ++ 0#1 ++ 0#1) = .ok .protectCrc := by decide
theorem test_decode_protectHam : decode (5#4 ++ 2#2 ++ 0#1 ++ 0#1) = .ok .protectHam := by decide
theorem test_decode_wrapCc : decode (6#4 ++ 0#2 ++ 0#1 ++ 0#1) = .ok .wrapCc := by decide
theorem test_decode_wrapByte : decode (6#4 ++ 1#2 ++ 0#1 ++ 0#1) = .ok .wrapByte := by decide
theorem test_decode_wrapBit : decode (6#4 ++ 2#2 ++ 0#1 ++ 0#1) = .ok .wrapBit := by decide
theorem test_decode_wrapBith : decode (6#4 ++ 2#2 ++ 0#1 ++ 1#1) = .ok .wrapBith := by decide
theorem test_decode_deframeCc : decode (7#4 ++ 0#2 ++ 0#1 ++ 0#1) = .ok .deframeCc := by decide
theorem test_decode_deframeByte : decode (7#4 ++ 1#2 ++ 0#1 ++ 0#1) = .ok .deframeByte := by decide
theorem test_decode_deframeBit : decode (7#4 ++ 2#2 ++ 0#1 ++ 0#1) = .ok .deframeBit := by decide
theorem test_decode_deframeBith : decode (7#4 ++ 2#2 ++ 0#1 ++ 1#1) = .ok .deframeBith := by decide
theorem test_decode_checkPar : decode (8#4 ++ 0#2 ++ 0#1 ++ 0#1) = .ok .checkPar := by decide
theorem test_decode_checkCrc : decode (8#4 ++ 1#2 ++ 0#1 ++ 0#1) = .ok .checkCrc := by decide
theorem test_decode_checkHam : decode (8#4 ++ 2#2 ++ 0#1 ++ 0#1) = .ok .checkHam := by decide
theorem test_decode_join : decode (9#4 ++ 0#2 ++ 0#1 ++ 0#1) = .ok .join := by decide
theorem test_decode_modAsk : decode (10#4 ++ 0#2 ++ 0#1 ++ 0#1) = .ok .modAsk := by decide
theorem test_decode_modFsk : decode (10#4 ++ 1#2 ++ 0#1 ++ 0#1) = .ok .modFsk := by decide
theorem test_decode_modQam8 : decode (10#4 ++ 2#2 ++ 0#1 ++ 0#1) = .ok .modQam8 := by decide

theorem test_reserved_words :
    ([0x00, 0x0C, 0xB0, 0xFF, 0x1C, 0x12, 0x11, 0x61, 0x94].map fun w => decodeTableWord 8 w) =
      List.replicate 9 none := by decide
theorem test_table_word : decodeTableWord 8 0x69 = some .wrapBith := by decide
theorem test_step_runs_word :
    (nextState? (step (State.reset.withFetchWord 8 0x14))).map State.status = some 0#8 := by decide
theorem test_step_reserved_word :
    (nextState? (step (State.reset.withFetchWord 8 0xFF))).map (fun t => (t.status, t.cause)) =
      some (9#8, 1#8) := by decide
theorem test_qam_absent :
    (nextState? (step (State.reset.withFetchWord 8 0xA8))).map (fun t => (t.status, t.cause)) =
      some (9#8, 1#8) := by decide

/-! ## Line coder -/

theorem test_lencNrz_V1 : bufAfter .lencNrz (onWord 4 0b0100) = some (.syms [3#2, 1#2, 3#2, 3#2]) := by decide
theorem test_lencMan_V2a : bufAfter .lencMan (onWord 2 0b01) = some (.bits (bitsN 4 0b0110)) := by decide
theorem test_lencMan_V2 : bufAfter .lencMan (onBuf (.bits hi)) =
    some (.bits (bitsOfBytes [0x65, 0x95, 0x69, 0x96])) := by decide +kernel
theorem test_lencAmi_V3 : bufAfter .lencAmi (onWord 8 0b11010011) =
    some (.syms [1#2, 3#2, 0#2, 1#2, 0#2, 0#2, 3#2, 1#2]) := by decide
theorem test_ldecNrz_V4 : bufAfter .ldecNrz (onBuf (.syms [3#2, 1#2, 0#2, 1#2])) =
    some (.bits (bitsN 4 0b0101)) := by decide
theorem test_ldecNrz_V4a : bufAfter .ldecNrz (onBuf (.syms [2#2, 1#2])) = some (.bits [false, true]) := by decide
theorem test_ldecMan_V5a : bufAfter .ldecMan (onWord 4 0b0011) = some (.bits [true, true]) := by decide
theorem test_ldecMan_V5b : statusAfter .ldecMan (onWord 3 0b011) = some (9, 0x10, 0, 2) := by decide
theorem test_ldecAmi_V6 : bufAfter .ldecAmi (onBuf (.syms [1#2, 1#2, 0#2, 3#2])) =
    some (.bits (bitsN 4 0b1101)) := by decide
theorem test_ldecAmi_V6a : bufAfter .ldecAmi (onBuf (.syms [2#2, 0#2])) = some (.bits [true, false]) := by decide
theorem test_lmapNrz_V7 : bufAfter .lmapNrz (onBuf (.syms [3#2, 1#2, 3#2, 3#2])) =
    some (.bits (bitsN 4 0b0100)) := by decide
theorem test_lmapMan_V8 : bufAfter .lmapMan (onWord 4 0b0110) = some (.bits (bitsN 4 0b0110)) := by decide
theorem test_lmapAmi_V9 : bufAfter .lmapAmi (onBuf (.syms [1#2, 3#2, 0#2, 1#2])) =
    some (.bits (bitsN 4 0b1101)) := by decide
theorem test_kind_V9b : statusAfter .ldecNrz (onWord 4 0) = some (9, 2, 0, 0) := by decide

/-! ## Framer -/

theorem test_splitCc_V13b : (nextState? (exec .splitCc (onBuf (.bits (rep true 2033))))).map
    (fun t => match t.buf with
      | .frames f => f.map fun x => x.body.length
      | .bits _ => []
      | .syms _ => []) = some [2032, 1] := by decide +kernel
theorem test_splitByte_V13 : bufAfter .splitByte (onBuf (.bits [])) = some (.frames []) := by decide
theorem test_splitBit_V13c : bufAfter .splitBit (onWord 17 0x90D2) =
    some (.frames [⟨bitsN 17 0x90D2, 0#8⟩]) := by decide +kernel
theorem test_wrapCc_V14 : bufAfter .wrapCc (onFrame (bitsN 17 0x90D2) 0) =
    some (.bits (bitsOfBytes [0x05, 0x07, 0x48, 0x69, 0x00])) := by decide +kernel
theorem test_wrapCc_V14d : statusAfter .wrapCc (onFrame (rep false 2025) 0) = some (9, 0x27, 0, 0) := by
  decide +kernel
theorem test_wrapByte_V15 : bufAfter .wrapByte (onFrame (bitsN 17 0x90D2) 0) =
    some (.bits (bitsOfBytes [0x7E, 0x07, 0x48, 0x69, 0x00, 0x7E])) := by decide +kernel
theorem test_wrapBit_V16a : bufAfter .wrapBit (onFrame [] 0) = some (.bits (bitsOfBytes [0x7E, 0x7E])) := by
  decide +kernel
theorem test_wrapBith_V17 : bufAfter .wrapBith (onFrame (bitsN 4 0b0100) 0) =
    some (.bits (bitsN 28 0b0111111000000000010001111110)) := by decide +kernel
theorem test_deframeCc_V18 : bufAfter .deframeCc (onBytes [3, 0, 0x48, 3, 7, 0x80]) =
    some (.frames [⟨bitsN 8 0x48, 0#8⟩, ⟨bitsN 8 0x80, 7#8⟩]) := by decide +kernel
theorem test_deframeCc_V18d : statusAfter .deframeCc (onBytes [4, 0, 0x48, 0x69, 3]) =
    some (9, 0x20, 1, 32) := by decide +kernel
theorem test_deframeByte_V19 : bufAfter .deframeByte (onBytes [0x7E, 0x07, 0x48, 0x69, 0x00, 0x7E]) =
    some (.frames [⟨bitsOfBytes [0x48, 0x69, 0x00], 7#8⟩]) := by decide +kernel
theorem test_deframeByte_V19a : statusAfter .deframeByte (onBytes [0x7E, 0, 0x61, 0x7E, 0x62, 0x7E]) =
    some (9, 0x23, 1, 32) := by decide +kernel
theorem test_deframeBit_V20 : bufAfter .deframeBit (onWord 33 0b011111100100100001101001001111110) =
    some (.frames [⟨bitsN 17 0x90D2, 0#8⟩]) := by decide +kernel
theorem test_deframeBit_V20b : statusAfter .deframeBit (onBytes [0x7E, 0x3F, 0x41, 0x7E]) =
    some (9, 0x23, 1, 17) := by decide +kernel
theorem test_deframeBith_V21 : bufAfter .deframeBith (onWord 30 0b011111100000001101001101111110) =
    some (.frames [⟨bitsN 6 0b010011, 3#8⟩]) := by decide +kernel
theorem test_deframeBith_V21a : statusAfter .deframeBith (onWord 20 0b01111110010001111110) =
    some (9, 0x25, 0, 0) := by decide +kernel
theorem test_join : bufAfter .join (onBuf (.frames [⟨bitsN 8 0x80, 7#8⟩, ⟨bitsN 8 0x69, 0#8⟩])) =
    some (.bits (bitsN 16 0x8069)) := by decide +kernel

/-! ## Error control -/

theorem test_protectPar_V22 : bufAfter .protectPar (onFrame hi 0) =
    some (.frames [⟨bitsN 17 0x90D2, 0#8⟩]) := by decide +kernel
theorem test_checkPar_V22d : bufAfter .checkPar (onFrame (bitsOfBytes [0x48, 0x69, 0]) 7) =
    some (.frames [⟨hi, 0#8⟩]) := by decide +kernel
theorem test_checkPar_V23 : (nextState? (exec .checkPar (onFrame (bitsN 17 0x94D2) 0))).map
    (fun t => (t.status, t.eflags)) = some (2#8, [1#2]) := by decide +kernel
theorem test_protectCrc_V25 : (nextState? (exec .protectCrc (onFrame hi 0))).map
    (fun t => (t.crcrem, t.filltab)) = some (0xB5FF2225#32, [48#8]) := by decide +kernel
theorem test_protectCrc_V25d_crc : (nextState? (exec .protectCrc
    (onFrame (bitsOfBytes [0x31, 0x32, 0x33, 0x34, 0x35, 0x36, 0x37, 0x38, 0x39]) 0))).map
    State.crcrem = some 0x89A1897F#32 := by decide +kernel
theorem test_checkCrc_V27 : bufAfter .checkCrc (onFrame
    (bitsOfBytes [0x48, 0x69, 0x55, 0x55, 0x55, 0x55, 0x55, 0x55, 0xB5, 0xFF, 0x22, 0x25]) 0) =
    some (.frames [⟨bitsOfBytes [0x48, 0x69, 0x55, 0x55, 0x55, 0x55, 0x55, 0x55], 0#8⟩]) := by
  decide +kernel
theorem test_checkCrc_V29 : (nextState? (exec .checkCrc (onFrame
    (bitsOfBytes [0xC8, 0x69, 0x55, 0x55, 0x55, 0x55, 0x55, 0x55, 0xB5, 0xFF, 0x22, 0x25]) 0))).map
    (fun t => (t.crcrem, t.status)) = some (0x79005533#32, 2#8) := by decide +kernel
theorem test_protectHam_V31g : bufAfter .protectHam (onFrame hi 0) =
    some (.frames [⟨bitsN 21 0b010010011000011001001, 0#8⟩]) := by decide +kernel
theorem test_checkHam_V33 : (nextState? (exec .checkHam (onFrame (bitsN 7 0b0110111) 0))).map
    (fun t => (t.buf, t.syn, t.eflags, t.status)) =
    some (.frames [⟨bitsN 4 0b1011, 0#8⟩], 5, [2#2], 4#8) := by decide +kernel
theorem test_checkHam_V37a : (nextState? (exec .checkHam (onFrame [true, true] 0))).map
    (fun t => (t.syn, t.eflags)) = some (3, [1#2]) := by decide +kernel
theorem test_hamR_table : ([0, 1, 2, 4, 5, 11, 12, 26, 27, 57, 58, 2008, 2032].map hamR) =
    [0, 2, 3, 3, 4, 4, 5, 5, 6, 6, 7, 11, 11] := by decide +kernel

/-! ## Modulator -/

/-- `AMP = 2`, `F = 1`, `F1 = 2`, `F2 = 1`. -/
def tuned (b : BitSeq) : State :=
  { onBuf (.bits b) with amp := some (.rat 2), f := some (.rat 1), f1 := some (.rat 2), f2 := some (.rat 1), fmod := some (.rat 1) }

theorem test_modAsk_V40 : (nextState? (exec .modAsk (tuned [true, false]))).map
    (fun t => (t.sig.length, t.sig[25]?, t.sig[100]?)) =
    some (200, some (.sine (.rat 2) (.rat 1) 25), some .zero) := by decide +kernel
theorem test_modAsk_V41b : statusAfter .modAsk (onWord 1 1) = some (9, 3, 0, 8) := by decide
theorem test_modFsk_V41 : (nextState? (exec .modFsk (tuned [true, false]))).map
    (fun t => (t.sig[25]?, t.sig[125]?)) =
    some (some (.sine (.rat 2) (.rat 2) 25), some (.sine (.rat 2) (.rat 1) 25)) := by decide +kernel
theorem test_modFsk_V41c : statusAfter .modFsk { onWord 1 1 with amp := some (.rat 1) } = some (9, 3, 0, 10) := by
  decide
theorem test_modQam8_V42 : (nextState? (exec .modQam8
    { tuned [true, true, true, false] with hasQam8 := true })).map
    (fun t => (t.sigNsym, t.sig[0]?, t.sig[100]?, t.sigTime[199]?)) =
    some (2, some (.phasor ⟨.pos1, .pos3⟩ (.rat 1) 0), some (.phasor ⟨.neg1, .neg1⟩ (.rat 1) 0), some (199 / 100)) := by
  decide +kernel

/-- `SIG[25]` of V41: `2 sin π` is 0; `SIG[125]` is `2 sin(π/2) = 2`. -/
theorem test_sample_values (ν : Valuation) :
    (Sample.sine (.rat 2) (.rat 2) 25).value ν = 0 ∧ (Sample.sine (.rat 2) (.rat 1) 25).value ν = 2 := by
  constructor
  · have h : 2 * Real.pi * ((2 : ℚ) : ℝ) * ((25 : ℕ) : ℝ) / (Config.samplesPerBit : ℝ) = Real.pi := by
      simp; ring
    simp only [Sample.value, Number.value, h, Real.sin_pi]; simp
  · have h : 2 * Real.pi * ((1 : ℚ) : ℝ) * ((25 : ℕ) : ℝ) / (Config.samplesPerBit : ℝ) = Real.pi / 2 := by
      simp; ring
    simp only [Sample.value, Number.value, h, Real.sin_pi_div_two]; simp

/-- Every real number can be written to a parameter register, and is the amplitude of the samples. -/
theorem test_every_real (r : ℝ) : ∃ (x : Number) (ν : Valuation),
    x.value ν = r ∧ (nextState? (step (withHost [.write (.param .amp x)]))).map State.amp = some (some x) :=
  ⟨.real 0, fun _ => r, rfl, rfl⟩

/-! ## The host -/

theorem test_status_reads_low_bits : State.readValue { State.reset with status := 0xF9#8 }
    (.reg (.readOnly .status)) = .nat 9 := by decide
theorem test_kind_three_refused : (nextState? (step (withHost [.write (.kind 3#2)]))).map State.buf =
    some (.bits []) := by decide
theorem test_kind_written : (nextState? (step (withHost [.write (.kind 2#2)]))).map (fun t => t.buf.kind) =
    some .frames := by decide
theorem test_fmod_absent : (nextState? (step (withHost [.write (.param .fmod (.rat 1))]))).map State.fmod =
    some none := by decide +kernel
theorem test_reset_event : (nextState? (step
    { onWord 4 5 with status := 9#8, amp := some (.rat 1), host := [.reset] })).map
    (fun t => (t.buf, t.status, t.amp)) = some (.bits [], 0#8, none) := by decide +kernel
theorem test_stop_on_fault : (nextState? (step { withHost [.stopOnFault, .reset] with status := 9#8 })).map
    State.host = some [] := by decide +kernel
theorem test_register_numbers : ((List.range 16).map fun n => (regOf n).map Reg.number) =
    (List.range 16).map some := by decide

/-! ## Witnesses: for every statement a state and operands that meet its hypotheses -/

theorem witness_StepRunsTheDecodedCommand :
    (withHost [.write (.cmd 0x69#8)]).host = .write (.cmd 0x69#8) :: [] ∧ decode 0x69#8 = .ok .wrapBith :=
  ⟨rfl, by decide⟩
theorem witness_ReservedWordsRaiseIllegalCommand :
    ReservedWord 0x0F#8 ∧ ReservedWord 0xB0#8 ∧ ReservedWord 0x1C#8 ∧ ReservedWord 0x12#8 ∧
    ReservedWord 0x61#8 ∧ ReservedWord 0x98#8 ∧ ¬ ReservedWord 0xA8#8 ∧ State.reset.hasQam8 = false ∧
    ({ State.reset with hasQam8 := true } : State).hasQam8 = true := by
  refine ⟨?_, ?_, ?_, ?_, ?_, ?_, ?_, rfl, rfl⟩ <;> decide
theorem witness_WrongKindRaisesKindMismatch :
    Instr.modAsk.wellFormed (onBuf (.syms [])).hasQam8 = true ∧
    (onBuf (.syms [])).buf.kind ≠ Instr.modAsk.inKind := by decide
theorem witness_KindChecked : ∀ i : Instr, ∃ s : State, s.buf.kind ≠ i.inKind := by
  intro i
  cases h : i.inKind
  · exact ⟨onBuf (.syms []), by simp [onBuf, Buf.kind]⟩
  · exact ⟨onBuf (.frames []), by simp [onBuf, Buf.kind]⟩
  · exact ⟨onBuf (.bits []), by simp [onBuf, Buf.kind]⟩
theorem witness_FaultingCommandsWriteOnlyTheStatusRegisters :
    ∃ t, exec .ldecMan (onWord 3 3) = .next t ∧ t.faultBit = true := ⟨_, rfl, by decide⟩
theorem witness_CompletedCommandsClearTheStatusRegisters :
    ∃ t, exec .checkHam (onFrame (bitsN 7 0b0110111) 0) = .next t ∧ t.faultBit = false ∧
      t.corBit = true := ⟨_, rfl, by decide +kernel⟩
theorem witness_CompletedCommandsClearTheStatusRegisters_err :
    ∃ t, exec .checkPar (onFrame [true] 0) = .next t ∧ t.faultBit = false ∧ t.errBit = true :=
  ⟨_, rfl, by decide +kernel⟩
theorem witness_EachRegisterHasItsOwnWriters :
    ∃ t, exec .protectCrc (onFrame [] 0) = .next t := ⟨_, rfl⟩
theorem witness_StickyFaultIsClearedByResetOnly :
    ∃ t, step { withHost [.loadBuf (.bits [])] with status := 9#8 } = .next t ∧
      ({ withHost [.loadBuf (.bits [])] with status := 9#8 } : State).sfBit = true ∧
      ∀ rest, ({ withHost [.loadBuf (.bits [])] with status := 9#8 } : State).host ≠ .reset :: rest :=
  ⟨_, rfl, by decide, by intro rest; simp [withHost]⟩
theorem witness_StepKeepsTheInvariant :
    StateInv (withHost [.loadBuf (.bits [true])]) ∧
      ∃ t, step (withHost [.loadBuf (.bits [true])]) = .next t := by
  refine ⟨⟨⟨by decide, by decide, by decide, by decide, .inl rfl, by decide, by decide, by decide,
    by decide⟩, ⟨by decide, by decide, by decide⟩⟩, _, rfl⟩
theorem witness_ResetSetsEveryPieceOfState : (withHost [.reset]).host = .reset :: [] := rfl
theorem witness_HostRegisterWrites :
    (∀ p v, (withHost [.write (.param p v)]).host = .write (.param p v) :: []) ∧
    (∀ r v, (withHost [.write (.readOnly r v)]).host = .write (.readOnly r v) :: []) ∧
    (∀ j v, (withHost [.write (.reserved j v)]).host = .write (.reserved j v) :: []) ∧
    (withHost [.write (.kind 3#2)]).host = .write (.kind 3#2) :: [] :=
  ⟨fun _ _ => rfl, fun _ _ => rfl, fun _ _ => rfl, rfl⟩
theorem witness_HostBufferWrites :
    (withHost []).host = [] ∧
    (withHost [.loadBuf (.bits [])]).host = .loadBuf (.bits []) :: [] ∧
    (withHost [.setFilltab [255#8]]).host = .setFilltab [255#8] :: [] ∧
    ({ withHost [.flip 1] with buf := .bits [true, false] } : State).buf = .bits ([true] ++ false :: []) ∧
    [true].length = 1 ∧
    (withHost [.reset]).host = .reset :: [] ∧
    (withHost [.write (.kind 2#2)]).host = .write (.kind 2#2) :: [] ∧ kindOf 2#2 = some .frames ∧
    kindOf 0#2 = some .bits ∧ (withHost [.write (.kind 0#2)]).buf.kind = .bits := by
  decide +kernel
theorem witness_HostReadsChangeNothing :
    (∀ p, (withHost [.read p]).host = .read p :: []) ∧
    (onBuf (.bits [])).buf = .bits [] ∧ (onBuf (.syms [])).buf = .syms [] ∧
    (onBuf (.frames [])).buf = .frames [] ∧
    (tuned []).amp = some (.rat 2) ∧ (tuned []).f = some (.rat 1) ∧ (tuned []).f1 = some (.rat 2) ∧ (tuned []).f2 = some (.rat 1) ∧
    ({ tuned [] with hasQam8 := true } : State).fmod = some (.rat 1) ∧ (tuned []).hasQam8 = false :=
  ⟨fun _ => rfl, rfl, rfl, rfl, rfl, rfl, rfl, rfl, rfl, rfl⟩
/-- Every statement on a BITS command: `s.buf = .bits b`, with an index inside `b` where it names one. -/
theorem witness_bits : (onBuf (.bits [true])).buf = .bits [true] ∧ 0 < [true].length := by decide
/-- Every statement on a SYMS command. -/
theorem witness_syms : (onBuf (.syms [2#2])).buf = .syms [2#2] ∧ 0 < [2#2].length := by decide
/-- Every statement on a FRAMES command. -/
theorem witness_frames : (onFrame [true] 0).buf = .frames [⟨[true], 0#8⟩] := rfl
theorem witness_LdecManDecodesPairs :
    (onWord 1 1).buf = .bits [true] ∧ [true].length % 2 = 1 ∧
    (onWord 2 1).buf = .bits [false, true] ∧ [false, true].length % 2 = 0 := by decide
/-- The longest body that fits and the shortest that does not. -/
theorem witness_WrapCcWritesTheHeaders :
    2 + ((rep false 2024).length + ceil8 (rep false 2024).length) / 8 = 255 ∧
    2 + ((rep false 2025).length + ceil8 (rep false 2025).length) / 8 = 256 ∧
    (onBuf (.frames ([⟨rep false 2024, 0#8⟩] ++ ⟨rep false 2025, 0#8⟩ :: []))).buf =
      .frames ([⟨rep false 2024, 0#8⟩] ++ ⟨rep false 2025, 0#8⟩ :: []) := by
  refine ⟨?_, ?_, rfl⟩ <;> simp [ceil8]
theorem witness_DeframeCcParsesExactlyTheFormat :
    CcFrame ⟨rep false 2024, 255#8⟩ ∧ CcFrame ⟨rep true 8, 8#8⟩ ∧ CcFrame ⟨[], 0#8⟩ ∧
    bufAfter .deframeCc (onBuf (.bits (ccWire ⟨rep true 8, 8#8⟩ ++ ccWire ⟨[], 0#8⟩))) =
      some (.frames [⟨rep true 8, 8#8⟩, ⟨[], 0#8⟩]) := by decide +kernel
theorem witness_DeframeByteParsesExactlyTheFormat :
    ByteFrame ⟨rep true 8, 8#8⟩ ∧ ByteFrame ⟨[], 0#8⟩ ∧
    bufAfter .deframeByte (onBuf (.bits (byteWire ⟨rep true 8, 8#8⟩ ++ byteWire ⟨[], 0#8⟩))) =
      some (.frames [⟨rep true 8, 8#8⟩, ⟨[], 0#8⟩]) := by decide +kernel
theorem witness_DeframeBitParsesExactlyTheFormat :
    BitFrame ⟨bitsN 6 0b111110, 0#8⟩ ∧ BitFrame ⟨[], 0#8⟩ ∧
    bufAfter .deframeBit (onBuf (.bits (bitWire ⟨bitsN 6 0b111110, 0#8⟩ ++ bitWire ⟨[], 0#8⟩))) =
      some (.frames [⟨bitsN 6 0b111110, 0#8⟩, ⟨[], 0#8⟩]) := by decide +kernel
theorem witness_DeframeBithParsesExactlyTheFormat :
    BithFrame ⟨[true, false], 2#8⟩ ∧ BithFrame ⟨[], 0#8⟩ ∧
    bufAfter .deframeBith (onBuf (.bits (bithWire ⟨[true, false], 2#8⟩ ++ bithWire ⟨[], 0#8⟩))) =
      some (.frames [⟨[true, false], 2#8⟩, ⟨[], 0#8⟩]) := by decide +kernel
/-- One stream per clause, after one good frame. -/
theorem witness_DeframeCcFaultsAtTheFirstBadFrame :
    (onWord 15 2).buf = .bits (bitsN 15 2) ∧ (bitsN 15 2).length % 8 ≠ 0 ∧ CcFrame ⟨[], 0#8⟩ ∧
    statusAfter .deframeCc (onBuf (.bits (ccWire ⟨[], 0#8⟩ ++ bitsOfBytes [2]))) = some (9, 0x20, 1, 16) ∧
    octet (bitsOfBytes [1, 0]) 0 < 2 ∧
    statusAfter .deframeCc (onBuf (.bits (ccWire ⟨[], 0#8⟩ ++ bitsOfBytes [1, 0]))) = some (9, 0x21, 1, 16) ∧
    (bitsOfBytes [3, 0]).length < 8 * octet (bitsOfBytes [3, 0]) 0 ∧
    statusAfter .deframeCc (onBuf (.bits (ccWire ⟨[], 0#8⟩ ++ bitsOfBytes [3, 0]))) = some (9, 0x20, 1, 16) ∧
    8 * (octet (bitsOfBytes [3, 9, 0]) 0 - 2) < octet (bitsOfBytes [3, 9, 0]) 8 ∧
    statusAfter .deframeCc (onBuf (.bits (ccWire ⟨[], 0#8⟩ ++ bitsOfBytes [3, 9, 0]))) =
      some (9, 0x26, 1, 16) := by decide +kernel
theorem witness_DeframeByteFaultsAtTheFirstBadFrame :
    ByteFrame ⟨[], 0#8⟩ ∧ octet (bitsOfBytes [0x7F]) 0 ≠ 0x7E ∧
    statusAfter .deframeByte (onBuf (.bits (byteWire ⟨[], 0#8⟩ ++ bitsOfBytes [0x7F]))) =
      some (9, 0x23, 1, 24) ∧
    ByteFlagFree (bitsOfBytes [0x00]) ∧
    statusAfter .deframeByte (onBuf (.bits (byteWire ⟨[], 0#8⟩ ++ (Config.flag ++ bitsOfBytes [0x00])))) =
      some (9, 0x24, 1, 24) ∧
    statusAfter .deframeByte (onBuf (.bits (byteWire ⟨[], 0#8⟩ ++ (Config.flag ++ Config.flag ++ [])))) =
      some (9, 0x25, 1, 24) ∧
    ByteFlagFree (bitsOfBytes [9, 0]) ∧ (bitsOfBytes [9, 0]).length - 8 < octet (bitsOfBytes [9, 0]) 0 ∧
    statusAfter .deframeByte (onBuf (.bits (byteWire ⟨[], 0#8⟩ ++
      (Config.flag ++ bitsOfBytes [9, 0] ++ Config.flag ++ [])))) = some (9, 0x26, 1, 24) := by
  decide +kernel
theorem witness_DeframeBitFaultsAtTheFirstBadFrame :
    BitFrame ⟨[], 0#8⟩ ∧ slice (bitsN 7 0x3F) 0 8 ≠ Config.flag ∧
    statusAfter .deframeBit (onBuf (.bits (bitWire ⟨[], 0#8⟩ ++ bitsN 7 0x3F))) = some (9, 0x23, 1, 16) ∧
    statusAfter .deframeBit (onBuf (.bits (bitWire ⟨[], 0#8⟩ ++ (Config.flag ++ [true])))) =
      some (9, 0x24, 1, 16) := by decide +kernel
/-- A short sequence holds no flag at any offset. -/
theorem witness_no_flag (q : Nat) : slice [true] q (q + 8) ≠ Config.flag := by
  intro h
  have := congrArg List.length h
  simp [Config.flag] at this
  omega
theorem witness_DeframeBithFaultsAtTheFirstBadFrame :
    BithFrame ⟨[], 0#8⟩ ∧
    statusAfter .deframeBith (onBuf (.bits (bithWire ⟨[], 0#8⟩ ++ [true]))) = some (9, 0x23, 1, 24) ∧
    statusAfter .deframeBith (onBuf (.bits (bithWire ⟨[], 0#8⟩ ++ (Config.flag ++ [true])))) =
      some (9, 0x24, 1, 24) ∧
    BitFlagFree (bitsN 7 0) ∧ (bitsN 7 0).length < 8 ∧
    statusAfter .deframeBith (onBuf (.bits (bithWire ⟨[], 0#8⟩ ++
      (Config.flag ++ bitsN 7 0 ++ Config.flag ++ [])))) = some (9, 0x25, 1, 24) ∧
    BitFlagFree (bitsN 8 1) ∧ (bitsN 8 1).length - 8 < octet (bitsN 8 1) 0 ∧
    statusAfter .deframeBith (onBuf (.bits (bithWire ⟨[], 0#8⟩ ++
      (Config.flag ++ bitsN 8 1 ++ Config.flag ++ [])))) = some (9, 0x26, 1, 24) := by decide +kernel
theorem witness_DeframeFaultsLeaveARecoverablePrefix :
    Instr.deframeBit.op = .deframe ∧
    ∃ t, exec .deframeBit (onBytes [0x7E, 0x3F, 0x41, 0x7E]) = .next t ∧ t.faultBit = true ∧
      t.cause ≠ 0x22#8 ∧ t.finfo = 1 := ⟨rfl, _, rfl, by decide +kernel⟩
/-- A body without and a body with a false flag. -/
theorem witness_StuffingIsTransparentExactlyWithoutFalseFlags :
    BitFlagFree hi ∧ ¬ BitFlagFree (bitsN 16 0x3F41) ∧ ¬ BitFlagFree (bitsN 7 0x3F) ∧
    ByteFlagFree (bitsN 8 0 ++ padded hi) ∧ ¬ ByteFlagFree (bitsN 8 0 ++ padded (bitsN 8 0x7E)) := by
  decide +kernel
theorem witness_FramingIsIdempotent :
    hi.length % 8 = 0 ∧ hi.length ≤ 2024 ∧ (rep false 2024).length ≤ 2024 ∧ chunk hi Config.stuffMaxDataBytes = [hi] ∧
    ByteFlagFree (bitsN 8 0 ++ hi) ∧ BitFlagFree hi ∧ BitFlagFree (bitsN 8 0 ++ hi) := by decide +kernel
/-- A frame with one bit left after its padding. -/
theorem witness_CheckParReportsOddOnes :
    (onFrame (rep true 8) 7).buf = .frames [⟨rep true 8, 7#8⟩] ∧ (7#8).toNat < (rep true 8).length := by
  decide
theorem witness_CheckFaultsAtTheFirstBadFrame :
    statusAfter .checkPar (onBuf (.frames ([⟨[true], 0#8⟩] ++ ⟨[true], 2#8⟩ :: []))) = some (9, 0x26, 1, 0) ∧
    statusAfter .checkPar (onBuf (.frames ([⟨[true], 0#8⟩] ++ ⟨[true], 1#8⟩ :: []))) = some (9, 0x40, 1, 0) ∧
    statusAfter .checkHam (onBuf (.frames ([⟨[true], 1#8⟩] ++ ⟨[true], 2#8⟩ :: []))) = some (9, 0x26, 1, 0) ∧
    statusAfter .checkCrc (onBuf (.frames ([⟨rep true 32, 0#8⟩] ++ ⟨[true], 2#8⟩ :: []))) =
      some (9, 0x26, 1, 0) ∧
    statusAfter .checkCrc (onBuf (.frames ([⟨rep true 32, 0#8⟩] ++ ⟨rep true 31, 0#8⟩ :: []))) =
      some (9, 0x40, 1, 0) ∧
    statusAfter .checkCrc { onBuf (.frames ([⟨rep true 32, 0#8⟩] ++ ⟨rep true 32, 0#8⟩ :: [])) with
      filltab := [0#8, 1#8] } = some (9, 0x41, 1, 0) := by decide +kernel
/-- What the three single-flip statements assume: a protected frame. -/
theorem witness_ParityDetectsOneFlippedBit :
    ∃ t, exec .protectPar (onFrame [true] 3) = .next t ∧ t.buf = .frames [⟨[true, true], 0#8⟩] :=
  ⟨_, rfl, by decide⟩
theorem witness_CrcDetectsEverySingleFlip :
    ∃ t body, exec .protectCrc (onFrame hi 0) = .next t ∧ t.buf = .frames [⟨body, 0#8⟩] ∧
      body.length = 96 := ⟨_, protectCrc hi, rfl, rfl, by decide +kernel⟩
theorem witness_HammingCorrectsEverySingleFlip :
    ∃ t body, exec .protectHam (onFrame hi 0) = .next t ∧ t.buf = .frames [⟨body, 0#8⟩] ∧
      body.length = 21 := ⟨_, protectHam hi, rfl, rfl, by decide +kernel⟩
/-- Two flips whose syndrome is inside (V35) and outside (V36) the word. -/
theorem witness_HammingMiscorrectsOrReportsTwoFlips :
    (0 + 1) ^^^ (1 + 1) ≤ 21 ∧ ¬ ((1 + 1) ^^^ (19 + 1) ≤ 21) ∧
    bufAfter .checkHam (onFrame (((protectHam hi).modify 0 not).modify 1 not) 0) =
      some (.frames [⟨bitsN 16 0b1100100001101001, 0#8⟩]) ∧
    bufAfter .checkHam (onFrame (((protectHam hi).modify 1 not).modify 19 not) 0) =
      some (.frames [⟨bitsN 16 0b0100100001101011, 0#8⟩]) := by decide +kernel
theorem witness_PolymodIsTheBitSerialDivider : (rep true 32).length ≤ 32 := by decide
/-- A frame that is just its padding, its CRC field and its recorded fill. -/
theorem witness_CheckCrcReportsTheResidue :
    ∀ k, k < [(⟨rep true 100, 4#8⟩ : Frame)].length →
      ([(⟨rep true 100, 4#8⟩ : Frame)].getD k default).pad.toNat + 32 +
        (([64#8] : List Byte).getD k 0#8).toNat ≤ ([(⟨rep true 100, 4#8⟩ : Frame)].getD k default).body.length := by
  decide +kernel
theorem witness_CheckHamCorrectsByTheSyndrome :
    (onFrame (rep true 3) 3).buf = .frames [⟨rep true 3, 3#8⟩] ∧ (3#8).toNat ≤ (rep true 3).length := by
  decide
theorem witness_ModAskSamples :
    (tuned [true]).buf = .bits [true] ∧ (tuned [true]).amp = some (.rat 2) ∧ (tuned [true]).f = some (.rat 1) ∧
    (tuned [true]).f1 = some (.rat 2) ∧ (tuned [true]).f2 = some (.rat 1) ∧ 0 < [true].length ∧ 99 < 100 :=
  ⟨rfl, rfl, rfl, rfl, rfl, by decide, by decide⟩
theorem witness_ModQamSamples :
    ({ tuned [true] with hasQam8 := true } : State).hasQam8 = true ∧
    ({ tuned [true] with hasQam8 := true } : State).buf = .bits [true] ∧
    ({ tuned [true] with hasQam8 := true } : State).fmod = some (.rat 1) ∧ 0 < ([true].length + 2) / 3 :=
  ⟨rfl, rfl, rfl, by decide⟩
theorem witness_ModNeedsItsParameters :
    (onWord 1 1).amp = none ∧
    ({ onWord 1 1 with amp := some (.rat 1) } : State).amp ≠ none ∧
    ({ onWord 1 1 with amp := some (.rat 1) } : State).f = none ∧
    ({ onWord 1 1 with amp := some (.rat 1) } : State).f1 = none ∧
    ({ onWord 1 1 with amp := some (.rat 1), f1 := some (.rat 1) } : State).f1 ≠ none ∧
    ({ onWord 1 1 with amp := some (.rat 1), f1 := some (.rat 1) } : State).f2 = none ∧
    ({ onWord 1 1 with hasQam8 := true } : State).fmod = none := by decide +kernel
/-- Premise (c) of the exchange, second alternative: a payload of 64 bits, and no fill recorded. -/
theorem witness_ReceiveInvertsTransmit_unfilled :
    Exchangeable .nrz .cc .crc (rep true 64) ∧ chunksOf .nrz .cc (rep true 64) = [rep true 64] ∧
    64 ≤ (rep true 64).length := by
  refine ⟨fun c hc => ?_, by decide +kernel, by decide⟩
  rw [show chunksOf .nrz .cc (rep true 64) = [rep true 64] by decide +kernel, List.mem_singleton] at hc
  subst hc
  show Config.ccHeaderBytes + (_ + _) / 8 < 2 ^ Config.lenFieldBits
  decide +kernel
/-- "Hi" meets the premises of the exchange for one scheme of every kind. -/
theorem witness_ReceiveInvertsTransmit :
    Exchangeable .nrz .cc .par hi ∧ Exchangeable .man .byte .ham hi ∧ Exchangeable .ami .bit .crc hi := by
  refine ⟨?_, ?_, ?_⟩ <;> intro c hc
  · rw [show chunksOf .nrz .cc hi = [hi] by decide +kernel, List.mem_singleton] at hc
    subst hc
    show Config.ccHeaderBytes + (_ + _) / 8 < 2 ^ Config.lenFieldBits
    decide +kernel
  · rw [show chunksOf .man .byte hi = [lencMan hi] by decide +kernel, List.mem_singleton] at hc
    subst hc
    show ByteFlagFree _
    decide +kernel
  · rw [show chunksOf .ami .bit hi = [hi] by decide +kernel, List.mem_singleton] at hc
    subst hc
    show BitFlagFree _
    decide +kernel

end Sys2Proof.Tests
end

section
/-! The reset event as a step of the machine (10_state.md R29, 70_reset_and_hazards.md R170). -/

namespace Sys2Proof.Machine

/-- With the reset event first on the host's list, the step takes it off and performs it. -/
theorem step_reset {s : State} {rest : List HostAction} (h : s.host = .reset :: rest) :
    step s = .next { s with host := rest }.resetEvent :=
  step_act h

/-- The reset event gives the reset state, but for the four fields that are not the block's own
(R27): these it keeps. -/
theorem resetEvent_eq_reset_with (s : State) :
    s.resetEvent = { State.reset with
      hasQam8 := s.hasQam8, host := s.host, readLog := s.readLog, freeCount := s.freeCount } :=
  rfl

/-- Settles O14: the step is the reset event, every field of which but the four kept ones is that of
`State.reset`, and the statement names none of the four. -/
theorem resetSetsEveryPieceOfState : Obligations.ResetSetsEveryPieceOfState := by
  intro s rest h
  refine ⟨_, step_reset h, ?_⟩
  simp [resetEvent_eq_reset_with, State.reset, Config.crcBits]

end Sys2Proof.Machine
end

section
/-! The decoder undone: a word that decodes is the encoding of its command (30_encoding.md R45 to R49),
so no reserved word decodes, and writing one to `CMD` raises `IllegalCommand` (R53, R56). -/

namespace Sys2Proof

theorem wordOf_fieldsOf (w : Byte) : wordOf (fieldsOf w) = w := by
  simp only [wordOf, fieldsOf]
  rw [BitVec.extractLsb'_append_extractLsb'_eq_extractLsb' (by decide),
    BitVec.extractLsb'_append_extractLsb'_eq_extractLsb' (by decide),
    BitVec.extractLsb'_append_extractLsb'_eq_extractLsb' (by decide)]
  exact BitVec.extractLsb'_eq_self

theorem opCode_of_opOf {op : BitVec 4} {o : Op} (h : opOf op = some o) : opCode o = op := by
  unfold opOf at h
  split at h <;> cases h
  all_goals next hn => exact (BitVec.eq_of_toNat_eq hn).symm

/-- The command of an operation and a scheme selector has both, and is no header form. -/
theorem codes_of_schemeOf {o : Op} {sch : BitVec 2} {i : Instr} (h : schemeOf o sch = some i) :
    i.op = o ∧ schCode i = sch ∧ hCode i = 0#1 := by
  unfold schemeOf at h
  split at h <;> cases h
  all_goals next hn => exact ⟨rfl, (BitVec.eq_of_toNat_eq hn).symm, rfl⟩

/-- A header form differs from its command in the `h` bit only. -/
theorem codes_of_headerFormOf {i j : Instr} (h : headerFormOf i = some j) :
    j.op = i.op ∧ schCode j = schCode i ∧ hCode j = 1#1 := by
  unfold headerFormOf at h
  split at h <;> cases h <;> exact ⟨rfl, rfl, rfl⟩

/-- What a word must hold to decode: `z` clear, an operation with that scheme, and the `h` bit set
just for a header form. -/
theorem decode_ok_cases {w : Byte} {i : Instr} (h : decode w = .ok i) :
    (fieldsOf w).z = 0#1 ∧ ∃ o k, opOf (fieldsOf w).op = some o ∧
      schemeOf o (fieldsOf w).sch = some k ∧
      ((fieldsOf w).h = 0#1 ∧ i = k ∨ (fieldsOf w).h = 1#1 ∧ headerFormOf k = some i) := by
  simp only [decode] at h
  split at h
  · cases h
  · next hz =>
    refine ⟨(BitVec.eq_zero_or_eq_one _).resolve_right hz, ?_⟩
    split at h
    · cases h
    · next o ho =>
      split at h
      · cases h
      · next k hk =>
        refine ⟨o, k, ho, hk, ?_⟩
        split at h
        · next h0 => exact .inl ⟨h0, by cases h; rfl⟩
        · next h0 =>
          have h1 := (BitVec.eq_zero_or_eq_one _).resolve_left h0
          split at h
          · next j hj => exact .inr ⟨h1, by cases h; exact hj⟩
          · cases h

/-- The fields of a word that decodes are the codes of its command. -/
theorem fieldsOf_of_decode {w : Byte} {i : Instr} (h : decode w = .ok i) :
    fieldsOf w = { op := opCode i.op, sch := schCode i, z := 0#1, h := hCode i } := by
  obtain ⟨hz, o, k, ho, hk, hform⟩ := decode_ok_cases h
  obtain ⟨hop, hsch, hh⟩ := codes_of_schemeOf hk
  rcases hform with ⟨h0, rfl⟩ | ⟨h1, hj⟩
  · rw [← hz, hop, opCode_of_opOf ho, hsch, hh, ← h0]
  · obtain ⟨jop, jsch, jh⟩ := codes_of_headerFormOf hj
    rw [← hz, jop, hop, opCode_of_opOf ho, jsch, hsch, jh, ← h1]

theorem encode_of_decode {w : Byte} {i : Instr} (h : decode w = .ok i) : encode i = w := by
  rw [encode, ← fieldsOf_of_decode h, wordOf_fieldsOf]

theorem not_reservedWord_encode (i : Instr) : ¬ ReservedWord (encode i) := by
  cases i <;> decide

theorem decode_of_reservedWord {w : Byte} (hw : ReservedWord w) : ∃ r, decode w = .error r := by
  cases h : decode w with
  | ok i => exact absurd (encode_of_decode h ▸ hw) (not_reservedWord_encode i)
  | error r => exact ⟨r, rfl⟩

end Sys2Proof

namespace Sys2Proof.Machine

theorem enterFault_illegalCommand (s : State) :
    s.enterFault illegalCommand = faultState s 0x01#8 0 0 := rfl

theorem issue_of_decode_ok {w : Byte} {i : Instr} (h : decode w = .ok i) (s : State) :
    issue s w = exec i s := by
  simp [issue, h]

theorem issue_of_decode_error {w : Byte} {r : Reserved} (h : decode w = .error r) (s : State) :
    issue s w = .next (faultState s 0x01#8 0 0) := by
  simp [issue, h, enterFault_illegalCommand]

theorem exec_modQam8_of_absent {s : State} (h : s.hasQam8 = false) :
    exec .modQam8 s = .next (faultState s 0x01#8 0 0) := by
  simp [exec, execModQam8, h, enterFault_illegalCommand]

/-- Settles O5: a reserved word does not decode, and `0xA8` is the word of `MOD.QAM8`. -/
theorem reservedWordsRaiseIllegalCommand : Obligations.ReservedWordsRaiseIllegalCommand := by
  have hA8 : decode 0xA8#8 = .ok .modQam8 := by decide
  refine ⟨fun s w hw => ?_, fun s hq => ?_, fun s _ => issue_of_decode_ok hA8 s⟩
  · obtain ⟨r, hr⟩ := decode_of_reservedWord hw
    exact issue_of_decode_error hr s
  · rw [issue_of_decode_ok hA8, exec_modQam8_of_absent hq]

end Sys2Proof.Machine
end

section
/-! Every command the block has reads `BUF` through the operand form of its input kind
(30_encoding.md R46), which is where a buffer of another kind is caught (R54). -/

namespace Sys2Proof.Machine

theorem execModQam8_eq_onBits {s : State} (h : s.hasQam8 = true) :
    ∃ g, execModQam8 s = onBits s g :=
  ⟨_, if_pos h⟩

theorem exec_eq_onBits {i : Instr} {s : State} (hw : i.wellFormed s.hasQam8 = true)
    (hk : i.inKind = .bits) : ∃ g, exec i s = onBits s g := by
  cases i with
  | lencNrz | lencMan | lencAmi | ldecMan | lmapMan | splitCc | splitByte | splitBit
  | deframeCc | deframeByte | deframeBit | deframeBith | modAsk | modFsk => exact ⟨_, rfl⟩
  | modQam8 => exact execModQam8_eq_onBits (by simpa [Instr.wellFormed] using hw)
  | _ => cases hk

theorem exec_eq_onSyms {i : Instr} (hk : i.inKind = .syms) (s : State) :
    ∃ g, exec i s = onSyms s g := by
  cases i with
  | ldecNrz | ldecAmi | lmapNrz | lmapAmi => exact ⟨_, rfl⟩
  | _ => cases hk

theorem exec_eq_onFrames {i : Instr} (hk : i.inKind = .frames) (s : State) :
    ∃ g, exec i s = onFrames s g := by
  cases i with
  | protectPar | protectCrc | protectHam | wrapCc | wrapByte | wrapBit | wrapBith
  | checkPar | checkCrc | checkHam | join => exact ⟨_, rfl⟩
  | _ => cases hk

/-- Settles O6, by the command's input kind: its operand form faults on a buffer of any other. -/
theorem wrongKindRaisesKindMismatch : Obligations.WrongKindRaisesKindMismatch := by
  intro i s hw hne
  cases hk : i.inKind with
  | bits =>
    obtain ⟨g, hg⟩ := exec_eq_onBits hw hk
    rw [hg, onBits_of_other (hk ▸ hne)]
  | syms =>
    obtain ⟨g, hg⟩ := exec_eq_onSyms hk s
    rw [hg, onSyms_of_other (hk ▸ hne)]
  | frames =>
    obtain ⟨g, hg⟩ := exec_eq_onFrames hk s
    rw [hg, onFrames_of_other (hk ▸ hne)]

end Sys2Proof.Machine
end

section
/-! The line coder (40_line_codec.md R60 to R69): what each command leaves on a buffer of its kind, and
the levels and bits the line codes give, index by index. -/

namespace Sys2Proof.Machine

section Rules
variable {s : State} {b : BitSeq} {y : List SymCode}

/-! ## The commands -/

/-- R54 for every command but `MOD.QAM8`, the one a block may lack. -/
theorem kindChecked_of_ne_modQam8 {i : Instr} (hi : i ≠ .modQam8) : KindChecked i := fun s =>
  wrongKindRaisesKindMismatch i s (by simp [Instr.wellFormed, hi])

theorem onBits_finish (h : s.buf = .bits b) (g : BitSeq → Buf) :
    onBits s (fun b => .ok (s.finish (g b))) = .next (doneState s (g b)) := by
  rw [onBits_of_bits h, settle_ok, finish_eq_doneState]

theorem onSyms_finish (h : s.buf = .syms y) (g : List SymCode → Buf) :
    onSyms s (fun y => .ok (s.finish (g y))) = .next (doneState s (g y)) := by
  rw [onSyms_of_syms h, settle_ok, finish_eq_doneState]

theorem exec_lencNrz (h : s.buf = .bits b) :
    exec .lencNrz s = .next (doneState s (.syms (lencNrz b))) := onBits_finish h _

theorem exec_lencAmi (h : s.buf = .bits b) :
    exec .lencAmi s = .next (doneState s (.syms (lencAmi symPos b))) := onBits_finish h _

theorem exec_ldecNrz (h : s.buf = .syms y) :
    exec .ldecNrz s = .next (doneState s (.bits (ldecNrz y))) := onSyms_finish h _

theorem exec_ldecAmi (h : s.buf = .syms y) :
    exec .ldecAmi s = .next (doneState s (.bits (ldecAmi y))) := onSyms_finish h _

/-- `LMAP.NRZ` does what `LDEC.NRZ` does: R67 and R64 are one decision. -/
theorem exec_lmapNrz (h : s.buf = .syms y) :
    exec .lmapNrz s = .next (doneState s (.bits (ldecNrz y))) := onSyms_finish h _

/-- `LMAP.AMI` does what `LDEC.AMI` does: R69 and R66 are one decision. -/
theorem exec_lmapAmi (h : s.buf = .syms y) :
    exec .lmapAmi s = .next (doneState s (.bits (ldecAmi y))) := onSyms_finish h _

theorem exec_lmapMan (h : s.buf = .bits b) :
    exec .lmapMan s = .next (doneState s (.bits b)) := onBits_finish h _

theorem exec_ldecMan_of_odd (h : s.buf = .bits b) (hodd : b.length % 2 = 1) :
    exec .ldecMan s = .next (faultState s 0x10#8 0 (b.length - 1)) := by
  change onBits s _ = _
  rw [onBits_of_bits h, if_pos hodd, settle_error, enterFault_eq_faultState]
  rfl

theorem exec_ldecMan_of_even (h : s.buf = .bits b) (heven : b.length % 2 = 0) :
    exec .ldecMan s = .next (doneState s (.bits (ldecMan b))) := by
  change onBits s _ = _
  rw [onBits_of_bits h, if_neg (by omega), settle_ok, finish_eq_doneState]

/-! ## NRZ -/

@[simp] theorem length_lencNrz (b : BitSeq) : (lencNrz b).length = b.length := List.length_map _

@[simp] theorem length_ldecNrz (y : List SymCode) : (ldecNrz y).length = y.length := List.length_map _

theorem getD_lencNrz {i : Nat} (hi : i < b.length) :
    (lencNrz b).getD i 0#2 = if b.getD i false then symPos else symNeg := by
  simp [lencNrz, hi]

/-- Outside the symbols both sides read the default, and symbol 0 is bit 0. -/
theorem getD_ldecNrz (y : List SymCode) (i : Nat) :
    (ldecNrz y).getD i false = decide ((y.getD i 0#2).toInt = 1) :=
  List.getD_map y 0#2 fun c => decide (c.toInt = 1)

/-! ## AMI -/

@[simp] theorem length_lencAmi (pol : SymCode) (b : BitSeq) : (lencAmi pol b).length = b.length := by
  induction b generalizing pol with
  | nil => rfl
  | cons x b ih => cases x <;> simp [lencAmi, ih]

@[simp] theorem length_ldecAmi (y : List SymCode) : (ldecAmi y).length = y.length := List.length_map _

/-- A mark has the starting polarity when an even number of marks stands before it, else the other:
a mark at the head flips both the polarity the rest starts from and the parity of what stands before. -/
theorem getD_lencAmi (pol : SymCode) (b : BitSeq) (i : Nat) :
    (lencAmi pol b).getD i symZero =
      if b.getD i false then (if (b.take i).count true % 2 = 0 then pol else -pol) else symZero := by
  induction b generalizing pol i with
  | nil => simp [lencAmi]
  | cons x b ih =>
    cases i with
    | zero => cases x <;> simp [lencAmi]
    | succ i =>
      cases x with
      | false => simpa [lencAmi] using ih pol i
      | true =>
        have hflip : (if (b.take i).count true % 2 = 0 then -pol else pol) =
            if ((b.take i).count true + 1) % 2 = 0 then pol else -pol := by
          rcases Nat.mod_two_eq_zero_or_one ((b.take i).count true) with h | h <;>
            simp [h, Nat.add_mod]
        simpa [lencAmi, hflip] using ih (-pol) i

theorem getD_ldecAmi (y : List SymCode) (i : Nat) :
    (ldecAmi y).getD i false = decide ((y.getD i 0#2).toInt ≠ 0) :=
  List.getD_map y 0#2 fun c => decide (c.toInt ≠ 0)

/-! ## Manchester -/

/-- An unpaired last element gives no bit. -/
theorem length_ldecMan : ∀ b : BitSeq, (ldecMan b).length = b.length / 2
  | [] => rfl
  | [_] => by simp [ldecMan]
  | _ :: _ :: b => by
    simp only [ldecMan, List.length_cons, length_ldecMan b]
    omega

/-- Pair `j` is elements `2j` and `2j + 1`. -/
theorem getD_ldecMan : ∀ {b : BitSeq} {j : Nat}, j < b.length / 2 →
    (ldecMan b).getD j false = !(!b.getD (2 * j) false && b.getD (2 * j + 1) false)
  | [], _, hj | [_], _, hj => by simp at hj
  | _ :: _ :: _, 0, _ => rfl
  | x :: z :: b, j + 1, hj => by
    have hrest : j < b.length / 2 := by simp only [List.length_cons] at hj; omega
    simpa [ldecMan, Nat.mul_add] using getD_ldecMan hrest

end Rules

/-! ## The statements -/

/-- Settles O20: the polarity starts at `+1`, so the parity of the marks before a mark is its sign. -/
theorem lencAmiAlternatesTheMarks : Obligations.LencAmiAlternatesTheMarks := by
  refine ⟨by decide, kindChecked_of_ne_modQam8 (by decide), fun s b h =>
    ⟨_, exec_lencAmi h, length_lencAmi _ b, fun i _ => ?_⟩⟩
  rw [← symZero, getD_lencAmi]
  split_ifs <;> decide

/-- Settles O23, by the parity of the length. -/
theorem ldecManDecodesPairs : Obligations.LdecManDecodesPairs := by
  refine ⟨by decide, kindChecked_of_ne_modQam8 (by decide), fun s y => exec_ldecMan_of_odd,
    fun s y h heven => ⟨_, exec_ldecMan_of_even h heven, ?_, fun j hj => ?_⟩⟩
  · rw [length_ldecMan]
    omega
  · rw [getD_ldecMan (length_ldecMan y ▸ hj)]
    simp

/-- Settles O18. -/
theorem lencNrzMapsBitsToLevels : Obligations.LencNrzMapsBitsToLevels := by
  refine ⟨by decide, kindChecked_of_ne_modQam8 (by decide), fun s b h =>
    ⟨_, exec_lencNrz h, length_lencNrz b, fun i hi => ?_⟩⟩
  rw [getD_lencNrz hi]
  split_ifs <;> decide

/-- Settles O21: both commands leave `ldecNrz` of the symbols. -/
theorem nrzReadsPlusOneAsOne : Obligations.NrzReadsPlusOneAsOne := by
  refine ⟨by decide, by decide, kindChecked_of_ne_modQam8 (by decide),
    kindChecked_of_ne_modQam8 (by decide), fun s y h =>
    ⟨_, exec_ldecNrz h, exec_lmapNrz h, length_ldecNrz y, fun i _ => ?_⟩⟩
  rw [getD_ldecNrz, decide_eq_true_iff]

/-- Settles O22: both commands leave `ldecAmi` of the symbols. -/
theorem amiReadsNonzeroAsOne : Obligations.AmiReadsNonzeroAsOne := by
  refine ⟨by decide, by decide, kindChecked_of_ne_modQam8 (by decide),
    kindChecked_of_ne_modQam8 (by decide), fun s y h =>
    ⟨_, exec_ldecAmi h, exec_lmapAmi h, length_ldecAmi y, fun i _ => ?_⟩⟩
  rw [getD_ldecAmi, decide_eq_true_iff]

/-- Settles O24. -/
theorem lmapManIsTheIdentity : Obligations.LmapManIsTheIdentity :=
  ⟨by decide, kindChecked_of_ne_modQam8 (by decide), fun _ _ => exec_lmapMan⟩

end Sys2Proof.Machine
end

section
/-! The framer (41_framer.md R76 to R87, R93): how a bit sequence is cut into pieces, and what `SPLIT`,
`WRAP` and `JOIN` leave on a buffer of their kind. -/

namespace Sys2Proof.Machine

/-! ## Cutting into pieces -/

section Pieces
variable {w : Nat}

/-- Induction along the rounds of cutting: a non-empty sequence rests on what is left after `w` bits. -/
theorem drop_induction (hw : 0 < w) {P : BitSeq → Prop} (nil : P [])
    (cut : ∀ b, b ≠ [] → P (b.drop w) → P b) (b : BitSeq) : P b := by
  by_cases hb : b = []
  · exact hb ▸ nil
  · have : (b.drop w).length < b.length := by
      have := List.length_pos_iff.mpr hb
      rw [List.length_drop]
      omega
    exact cut b hb (drop_induction hw nil cut (b.drop w))
termination_by b.length

theorem pieces_ne_nil (hw : 0 < w) {b : BitSeq} (hb : b ≠ []) : pieces w b ≠ [] := by
  simp [pieces_of_ne_nil hw hb]

theorem length_of_mem_pieces (hw : 0 < w) (b : BitSeq) :
    ∀ c ∈ pieces w b, 1 ≤ c.length ∧ c.length ≤ w := by
  induction b using drop_induction hw with
  | nil => simp
  | cut b hb ih =>
    have hpos := List.length_pos_iff.mpr hb
    rw [pieces_of_ne_nil hw hb, List.forall_mem_cons]
    exact ⟨by rw [List.length_take]; omega, ih⟩

/-- A piece that another one follows is whole. -/
theorem length_of_mem_dropLast_pieces (hw : 0 < w) (b : BitSeq) :
    ∀ c ∈ (pieces w b).dropLast, c.length = w := by
  induction b using drop_induction hw with
  | nil => simp
  | cut b hb ih =>
    rw [pieces_of_ne_nil hw hb]
    by_cases hrest : b.drop w = []
    · simp [hrest]
    · have hlong : w < b.length := by simpa using hrest
      rw [List.dropLast_cons_of_ne_nil (pieces_ne_nil hw hrest), List.forall_mem_cons]
      exact ⟨List.length_take_of_le hlong.le, ih⟩

end Pieces

/-! ## The frames of `SPLIT` -/

section Split
variable {M : Nat}

theorem flatten_map_body_splitFrames (hM : 0 < M) (b : BitSeq) :
    ((splitFrames b M).map Frame.body).flatten = b := by
  simpa [splitFrames, Function.comp_def] using flatten_chunk M hM b

theorem pad_and_length_of_mem_splitFrames (hM : 0 < M) (b : BitSeq) :
    ∀ x ∈ splitFrames b M, x.pad = 0#8 ∧ 1 ≤ x.body.length ∧ x.body.length ≤ 8 * M :=
  List.forall_mem_map.mpr fun c hc => ⟨rfl, length_of_mem_pieces (by omega) b c hc⟩

theorem length_of_mem_dropLast_splitFrames (hM : 0 < M) (b : BitSeq) :
    ∀ x ∈ (splitFrames b M).dropLast, x.body.length = 8 * M := by
  rw [splitFrames, ← List.map_dropLast]
  exact List.forall_mem_map.mpr (length_of_mem_dropLast_pieces (by omega) b)

end Split

/-! ## Frame by frame, whatever the index -/

/-- When every frame succeeds at any index, the results are those of a `map`. -/
theorem forFrames_ok_map {α : Type} {g : Nat → Frame → Except Raise α} {h : Frame → α}
    {f : List Frame} (k : Nat) (hx : ∀ j, ∀ x ∈ f, g j x = .ok (h x)) : forFrames g k f = .ok (f.map h) := by
  rw [forFrames_ok (h := fun _ => h) k f fun j x hj => hx (k + j) x (List.mem_of_getElem? hj)]
  exact congrArg _ (List.ext_getElem (by simp) (by simp))

/-! ## The bits of one character-count frame -/

/-- The bits `WRAP.CC` writes for a frame that fits (R82). -/
def ccFrameBits (x : Frame) : BitSeq :=
  bitsN 8 (2 + (x.body.length + ceil8 x.body.length) / 8) ++ bitsN 8 (ceil8 x.body.length)
    ++ x.body ++ rep false (ceil8 x.body.length)

theorem wrapCcFrame_of_fits (k : Nat) {x : Frame}
    (h : 2 + (x.body.length + ceil8 x.body.length) / 8 ≤ 255) :
    wrapCcFrame k x = .ok (ccFrameBits x) := by
  have hfit : ¬ 2 ^ 8 ≤ 2 + (x.body.length + ceil8 x.body.length) / 8 := by omega
  simp only [wrapCcFrame, Config.lenFieldBits_eq, Config.ccHeaderBytes_eq, if_neg hfit, ccFrameBits,
    padded, List.append_assoc]

theorem wrapCcFrame_of_overflow (k : Nat) {x : Frame}
    (h : 2 + (x.body.length + ceil8 x.body.length) / 8 > 255) :
    wrapCcFrame k x = .error ⟨.lenOverflow, k, 0⟩ :=
  if_pos (show 2 ^ 8 ≤ 2 + (x.body.length + ceil8 x.body.length) / 8 by omega)

/-! ## The commands -/

section Rules
variable {s : State} {b : BitSeq} {f : List Frame}

theorem onFrames_finish (h : s.buf = .frames f) (g : List Frame → Buf) :
    onFrames s (fun f => .ok (s.finish (g f))) = .next (doneState s (g f)) := by
  rw [onFrames_of_frames h, settle_ok, finish_eq_doneState]

theorem exec_splitCc (h : s.buf = .bits b) :
    exec .splitCc s = .next (doneState s (.frames (splitFrames b 254))) := onBits_finish h _

theorem exec_splitByte (h : s.buf = .bits b) :
    exec .splitByte s = .next (doneState s (.frames (splitFrames b 254))) := onBits_finish h _

theorem exec_splitBit (h : s.buf = .bits b) :
    exec .splitBit s = .next (doneState s (.frames (splitFrames b 254))) := onBits_finish h _

theorem exec_wrapCc_of_ok {ws : List BitSeq} (h : s.buf = .frames f)
    (hf : forFrames wrapCcFrame 0 f = .ok ws) :
    exec .wrapCc s = .next (doneState s (.bits ws.flatten)) := by
  change onFrames s _ = _
  rw [onFrames_of_frames h, hf]
  exact congrArg _ (finish_eq_doneState s _)

theorem exec_wrapCc_of_error {r : Raise} (h : s.buf = .frames f)
    (hf : forFrames wrapCcFrame 0 f = .error r) :
    exec .wrapCc s = .next (faultState s r.cause.code r.finfo r.fpos) := by
  change onFrames s _ = _
  rw [onFrames_of_frames h, hf]
  exact congrArg _ (enterFault_eq_faultState s r)

theorem exec_wrapCc_of_fits (h : s.buf = .frames f)
    (hfit : ∀ x ∈ f, 2 + (x.body.length + ceil8 x.body.length) / 8 ≤ 255) :
    exec .wrapCc s = .next (doneState s (.bits (f.flatMap ccFrameBits))) := by
  have hall := forFrames_ok_map (h := ccFrameBits) 0 fun j x hx => wrapCcFrame_of_fits j (hfit x hx)
  rw [exec_wrapCc_of_ok h hall, List.flatMap_def]

theorem exec_wrapCc_of_overflow {g : List Frame} {x : Frame} (h : s.buf = .frames (f ++ x :: g))
    (hfit : ∀ y ∈ f, 2 + (y.body.length + ceil8 y.body.length) / 8 ≤ 255)
    (hx : 2 + (x.body.length + ceil8 x.body.length) / 8 > 255) :
    exec .wrapCc s = .next (faultState s 0x27#8 f.length 0) := by
  have hfirst : forFrames wrapCcFrame 0 (f ++ x :: g) = .error ⟨.lenOverflow, 0 + f.length, 0⟩ :=
    forFrames_error 0 f
      (fun j y hy => ⟨_, wrapCcFrame_of_fits (0 + j) (hfit y (List.mem_of_getElem? hy))⟩)
      (wrapCcFrame_of_overflow _ hx)
  rw [exec_wrapCc_of_error h hfirst, Nat.zero_add]
  rfl

theorem exec_wrapByte (h : s.buf = .frames f) :
    exec .wrapByte s = .next (doneState s (.bits (f.flatMap wrapByteFrame))) := onFrames_finish h _

theorem exec_wrapBit (h : s.buf = .frames f) :
    exec .wrapBit s = .next (doneState s (.bits (f.flatMap wrapBitFrame))) := onFrames_finish h _

theorem exec_wrapBith (h : s.buf = .frames f) :
    exec .wrapBith s = .next (doneState s (.bits (f.flatMap wrapBithFrame))) := onFrames_finish h _

theorem exec_join (h : s.buf = .frames f) :
    exec .join s = .next (doneState s (.bits (f.flatMap Frame.body))) := onFrames_finish h _

end Rules

/-! ## The flag disciplines, with the flag as the octet `0x7E` -/

theorem flag_eq_bitsN : Config.flag = bitsN 8 0x7E := by decide

theorem wrapByteFrame_eq (x : Frame) :
    wrapByteFrame x = bitsN 8 0x7E ++ bitsN 8 (ceil8 x.body.length) ++ x.body
      ++ rep false (ceil8 x.body.length) ++ bitsN 8 0x7E := by
  simp only [wrapByteFrame, flag_eq_bitsN, padded, List.append_assoc]

theorem wrapBitFrame_eq (x : Frame) :
    wrapBitFrame x = bitsN 8 0x7E ++ x.body ++ bitsN 8 0x7E := by
  rw [wrapBitFrame, flag_eq_bitsN]

theorem wrapBithFrame_eq (x : Frame) :
    wrapBithFrame x = bitsN 8 0x7E ++ bitsN 8 0 ++ x.body ++ bitsN 8 0x7E := by
  rw [wrapBithFrame, flag_eq_bitsN]

/-! ## The statements -/

/-- Settles O26: all three commands leave `splitFrames b 254`, by R76 the pieces of 254 bytes. -/
theorem splitCutsIntoChunks : Obligations.SplitCutsIntoChunks := by
  have hM : 0 < 254 := by decide
  exact ⟨by decide, by decide, by decide, kindChecked_of_ne_modQam8 (by decide),
    kindChecked_of_ne_modQam8 (by decide), kindChecked_of_ne_modQam8 (by decide), fun s b h =>
    ⟨splitFrames b 254, exec_splitCc h, exec_splitByte h, exec_splitBit h,
      flatten_map_body_splitFrames hM b, pad_and_length_of_mem_splitFrames hM b,
      length_of_mem_dropLast_splitFrames hM b⟩⟩

/-- Settles O27: frame by frame, each fits and gives its bits, or the first that does not decides. -/
theorem wrapCcWritesTheHeaders : Obligations.WrapCcWritesTheHeaders :=
  ⟨by decide, kindChecked_of_ne_modQam8 (by decide), fun _ _ => exec_wrapCc_of_fits,
    fun _ _ _ _ => exec_wrapCc_of_overflow⟩

/-- Settles O28: each command concatenates its own frames' bits. -/
theorem wrapWritesTheFlags : Obligations.WrapWritesTheFlags := by
  refine ⟨by decide, by decide, by decide, kindChecked_of_ne_modQam8 (by decide),
    kindChecked_of_ne_modQam8 (by decide), kindChecked_of_ne_modQam8 (by decide),
    fun s f h => ⟨?_, ?_, ?_⟩⟩
  · simp only [exec_wrapByte h, funext wrapByteFrame_eq]
  · simp only [exec_wrapBit h, funext wrapBitFrame_eq]
  · simp only [exec_wrapBith h, funext wrapBithFrame_eq]

/-- Settles O39. -/
theorem joinConcatenatesTheBodies : Obligations.JoinConcatenatesTheBodies :=
  ⟨by decide, kindChecked_of_ne_modQam8 (by decide), fun _ _ h => by
    rw [exec_join h, List.flatMap_def]⟩

end Sys2Proof.Machine
end

section
/-! Even parity and the protection half of the CRC (42_parity_crc.md R101, R102, R106, R107, R112): what
`PROTECT.PAR`, `CHECK.PAR` and `PROTECT.CRC` leave on frames, and what a parity bit and a flipped bit do
to the number of 1s. -/

namespace Sys2Proof.Machine

/-! ## The number of 1s -/

theorem xorAll_append_one (m : BitSeq) (b : Bit) : xorAll (m ++ [b]) = (xorAll m ^^ b) := by
  simp [xorAll]

/-- The xor of all bits is the parity of the number of 1s. -/
theorem xorAll_toNat (m : BitSeq) : (xorAll m).toNat = m.count true % 2 := by
  induction m using List.reverseRecOn with
  | nil => rfl
  | append_singleton m b ih =>
    rw [xorAll_append_one, List.count_append]
    cases b with
    | false => simpa using ih
    | true =>
      have hflip : (!xorAll m).toNat = 1 - (xorAll m).toNat := by cases xorAll m <;> rfl
      simp only [Bool.xor_true, hflip, ih, List.count_singleton_self]
      omega

theorem count_protectPar (m : BitSeq) : (protectPar m).count true % 2 = 0 := by
  have hbit : [xorAll m].count true = (xorAll m).toNat := by cases xorAll m <;> rfl
  rw [protectPar, List.count_append, hbit, xorAll_toNat]
  omega

/-- A flip of one bit changes the parity of the number of 1s. -/
theorem count_modify_not {b : BitSeq} {j : Nat} (hj : j < b.length) :
    (b.modify j not).count true % 2 = (b.count true + 1) % 2 := by
  induction b generalizing j with
  | nil => cases hj
  | cons x b ih =>
    cases j with
    | zero => cases x <;> simp [Nat.add_assoc]
    | succ j =>
      have hrest := ih (Nat.lt_of_succ_lt_succ hj)
      simp only [List.modify_succ_cons, List.count_cons]
      omega

/-! ## Parity, frame by frame -/

/-- What checking the parity of a payload gives (R102). -/
def parChecked (x : BitSeq) : Checked where
  clean := x.dropLast
  err := decide (x.count true % 2 = 1)
  cor := false

@[simp] theorem parChecked_cor (x : BitSeq) : (parChecked x).cor = false := rfl

/-- The check's sum, counted before the last bit with the last bit added, counts all of the payload. -/
theorem count_dropLast_add_last {x : BitSeq} (hx : x ≠ []) :
    x.dropLast.count true + (x.getD (x.length - 1) false).toNat = x.count true := by
  obtain ⟨m, b, rfl⟩ := List.eq_nil_or_concat x |>.resolve_left hx
  cases b <;> simp

/-- The check of a payload as `PROTECT.PAR` left it gives the payload back and flags nothing. -/
theorem parChecked_protectPar (m : BitSeq) : parChecked (protectPar m) = ⟨m, false, false⟩ := by
  rw [parChecked, count_protectPar, protectPar, List.dropLast_concat]
  rfl

/-- With one bit flipped it is flagged. -/
theorem parChecked_err_of_flip {m : BitSeq} {j : Nat} (hj : j < (protectPar m).length) :
    (parChecked ((protectPar m).modify j not)).err = true := by
  have hflip := count_modify_not hj
  have heven := count_protectPar m
  exact decide_eq_true (by omega)

/-- A frame's body without its declared padding (R100). -/
def stripped (x : Frame) : BitSeq := x.body.take (x.body.length - x.pad.toNat)

theorem stripPad_eq_stripped (k : Nat) {x : Frame} (h : x.pad.toNat ≤ x.body.length) :
    stripPad k x = .ok (stripped x) := stripPad_ok h

theorem length_stripped (x : Frame) : (stripped x).length = x.body.length - x.pad.toNat := by
  simp [stripped]

theorem checkParFrame_ok (k : Nat) {x : Frame} (h : x.pad.toNat < x.body.length) :
    checkParFrame k x = .ok (parChecked (stripped x)) := by
  have hlen : (stripped x).length ≠ 0 := by
    rw [length_stripped]
    omega
  have hne : stripped x ≠ [] := mt List.length_eq_zero_iff.mpr hlen
  simp only [checkParFrame, stripPad_eq_stripped k h.le, if_neg hlen, slice, List.drop_zero,
    ← List.dropLast_eq_take, count_dropLast_add_last hne, parChecked]

/-! ## The filler of the CRC, and its record -/

theorem fillLen_eq (n : Nat) : fillLen n = 64 - n := by
  unfold fillLen Config.crcMinBits
  split <;> omega

theorem lastOr_map {α β : Type} (old : β) (g : α → β) (l : List α) :
    lastOr old (l.map g) = l.getLast?.elim old g := by
  rw [lastOr, List.getLast?_map]
  cases l.getLast? <;> rfl

@[simp] theorem length_filler (n : Nat) : (filler n).length = n := by
  simp [filler]

theorem getD_filler {n j : Nat} (hj : j < n) : (filler n).getD j false = decide (j % 2 = 1) := by
  simp [filler, hj]

/-! ## The commands -/

section Rules
variable {s : State} {f : List Frame}

theorem exec_protectPar (h : s.buf = .frames f) :
    exec .protectPar s = .next (doneState s (.frames (protectFrames protectPar f))) := onFrames_finish h _

theorem exec_checkPar (h : s.buf = .frames f) (hf : ∀ x ∈ f, x.pad.toNat < x.body.length) :
    exec .checkPar s = .next (s.finishCheck (f.map fun x => parChecked (stripped x))) := by
  have hall := forFrames_ok_map (h := fun x => parChecked (stripped x)) 0 fun j x hx =>
    checkParFrame_ok j (hf x hx)
  change onFrames s _ = _
  rw [onFrames_of_frames h, hall, settle_ok]

/-- One frame without padding, as `PROTECT.PAR` leaves it. -/
theorem exec_checkPar_unpadded {b : BitSeq} (h : s.buf = .frames [⟨b, 0#8⟩]) (hb : 0 < b.length) :
    exec .checkPar s = .next (s.finishCheck [parChecked b]) := by
  simpa [stripped] using exec_checkPar h (by simpa using hb)

theorem exec_protectCrc (h : s.buf = .frames f) :
    exec .protectCrc s = .next
      { doneState s (.frames (protectFrames protectCrc f)) with
        filltab := f.map fun x => BitVec.ofNat 8 (64 - x.body.length)
        crcrem := f.getLast?.elim s.crcrem fun x => crcOf x.body } := by
  change onFrames s _ = _
  simp only [onFrames_of_frames h, settle_ok, finish_eq_doneState, fillLen_eq, lastOr_map]

end Rules

/-! ## The statements -/

/-- Settles O42: the appended bit is the xor of the payload, which is 1 when the number of 1s is odd. -/
theorem protectParMakesTheOnesEven : Obligations.ProtectParMakesTheOnesEven :=
  ⟨by decide, kindChecked_of_ne_modQam8 (by decide), fun _ _ h =>
    ⟨xorAll, exec_protectPar h, count_protectPar⟩⟩

/-- Settles O45: the protected payload has an even number of 1s, and a flip makes it odd. -/
theorem parityDetectsOneFlippedBit : Obligations.ParityDetectsOneFlippedBit := by
  intro s t m body pad hs ht hbody
  obtain rfl : _ = t := Host.Outcome.next.inj ((exec_protectPar hs).symm.trans ht)
  obtain rfl : protectPar m = body := by simpa [protectFrames] using hbody
  refine ⟨⟨_, exec_checkPar_unpadded hbody (by simp [protectPar]), ?_⟩, fun j hj =>
    ⟨_, exec_checkPar_unpadded rfl (by rw [List.length_modify]; omega), ?_⟩⟩
  · simp [parChecked_protectPar, eflag]
  · simp [parChecked_err_of_flip hj, eflag, State.errBit, statusDone_bits]

/-- Settles O48: the filler is `fillLen` alternating bits, the CRC that of payload and filler. -/
theorem protectCrcAppendsFillAndRemainder : Obligations.ProtectCrcAppendsFillAndRemainder := by
  refine ⟨by decide, kindChecked_of_ne_modQam8 (by decide), fun s f h =>
    ⟨fun m => filler (fillLen m.length), fun m => ?_, fun m j hj => ?_, ?_⟩⟩
  · rw [length_filler, fillLen_eq]
  · exact getD_filler (by rwa [length_filler] at hj)
  · rw [exec_protectCrc h]
    cases f.getLast? <;> rfl

end Sys2Proof.Machine
end

section
/-! The encoding half of the Hamming code (43_hamming.md R120, R121): which positions are powers of two
and how many a codeword has, where the payload stands, and what setting a parity bit does to a group. -/

namespace Sys2Proof.Machine

/-! ## The powers of two -/

theorem lt_two_pow_bitlen (k : Nat) : k < 2 ^ bitlen k := by
  unfold bitlen
  split
  · next h => simp [h]
  · exact Nat.lt_log2_self

theorem mem_range_bitlen_filter_testBit {k i : Nat} :
    i ∈ (List.range (bitlen k)).filter k.testBit ↔ k.testBit i = true := by
  have hlt : k.testBit i = true → i < bitlen k := fun hi => by
    by_contra hle
    have hk : k < 2 ^ i := (lt_two_pow_bitlen k).trans_le (Nat.pow_le_pow_right two_pos (not_lt.mp hle))
    simp [Nat.testBit_lt_two_pow hk] at hi
  simpa using hlt

/-- The places of the 1 bits of `k` are the list of one place `i` exactly when `k` is `2 ^ i`. -/
theorem isPow2_iff {k : Nat} : isPow2 k = true ↔ ∃ i, k = 2 ^ i := by
  rw [isPow2, popcount, beq_iff_eq, List.length_eq_one_iff]
  refine exists_congr fun i => ⟨fun hones => ?_, ?_⟩
  · refine Nat.eq_of_testBit_eq fun j => ?_
    have hj : k.testBit j = true ↔ j = i := by
      rw [← mem_range_bitlen_filter_testBit, hones, List.mem_singleton]
    rw [Bool.eq_iff_iff, hj, Nat.testBit_two_pow, decide_eq_true_iff, eq_comm]
  · rintro rfl
    rw [← List.perm_singleton, List.perm_ext_iff_of_nodup (List.nodup_range.filter _)
      (List.nodup_singleton i)]
    intro j
    rw [mem_range_bitlen_filter_testBit, Nat.testBit_two_pow, decide_eq_true_iff, List.mem_singleton,
      eq_comm]

@[simp] theorem isPow2_two_pow (i : Nat) : isPow2 (2 ^ i) = true := isPow2_iff.mpr ⟨i, rfl⟩

/-- The positions from 1 to `n` that are powers of two are `2^0` to `2^(r-1)`, for the `r` exponents
that keep within `n`. -/
theorem length_filter_isPow2 {n r : Nat} (hr : ∀ i, 2 ^ i ≤ n ↔ i < r) :
    ((List.range' 1 n).filter isPow2).length = r := by
  have hperm : ((List.range' 1 n).filter isPow2).Perm ((List.range r).map (2 ^ ·)) := by
    rw [List.perm_ext_iff_of_nodup ((List.nodup_range' 1).filter _)
      (List.nodup_range.map (Nat.pow_right_injective le_rfl))]
    intro p
    simp only [List.mem_filter, List.mem_range'_1, isPow2_iff, List.mem_map, List.mem_range]
    constructor
    · rintro ⟨hp, i, rfl⟩
      exact ⟨i, (hr i).mp (by omega), rfl⟩
    · rintro ⟨i, hi, rfl⟩
      have hle := (hr i).mpr hi
      exact ⟨⟨Nat.one_le_two_pow, by omega⟩, i, rfl⟩
  simpa using hperm.length_eq

/-! ## The number of parity bits -/

/-- `r(m)` meets its condition, and no smaller number does: the search range holds `m + 1`, which meets
it. -/
theorem hamR_spec (m : Nat) :
    m + hamR m + 1 ≤ 2 ^ hamR m ∧ ∀ q, q < hamR m → 2 ^ q < m + q + 1 := by
  have hlast : m + (m + 1) + 1 ≤ 2 ^ (m + 1) := by
    have := Nat.lt_two_pow_self (n := m)
    omega
  obtain ⟨r, hr⟩ : ∃ r, (List.range (m + 2)).find? (fun r => decide (m + r + 1 ≤ 2 ^ r)) = some r := by
    refine Option.isSome_iff_exists.mp (List.find?_isSome.mpr ⟨m + 1, ?_, decide_eq_true hlast⟩)
    exact List.mem_range.mpr (by omega)
  rw [hamR, hr, Option.getD_some]
  obtain ⟨hmeets, -, hleast⟩ := List.find?_range_eq_some.mp hr
  exact ⟨of_decide_eq_true hmeets, fun q hq => by simpa using hleast q hq⟩

/-- The parity positions of a codeword are those of exponent below `r(m)`. -/
theorem two_pow_le_codeword_length_iff {m i : Nat} : 2 ^ i ≤ m + hamR m ↔ i < hamR m := by
  obtain ⟨hmeets, hleast⟩ := hamR_spec m
  constructor
  · intro hle
    by_contra hge
    have := Nat.pow_le_pow_right two_pos (not_lt.mp hge)
    omega
  · intro hi
    have hlast := hleast (hamR m - 1) (by omega)
    have := Nat.pow_le_pow_right (show 0 < 2 by decide) (show i ≤ hamR m - 1 by omega)
    omega

/-- The other positions of a codeword are as many as the payload has bits. -/
theorem length_filter_not_isPow2_codeword (m : Nat) :
    ((List.range' 1 (m + hamR m)).filter (!isPow2 ·)).length = m := by
  have hall := List.length_eq_length_filter_add (l := List.range' 1 (m + hamR m)) isPow2
  rw [List.length_range', length_filter_isPow2 fun _ => two_pow_le_codeword_length_iff] at hall
  omega

/-! ## The bits at chosen positions -/

/-- The bits of `c` at the positions that meet `q`, its first bit being at position `p`. `hamData` and
`groupXor` read a word this way. -/
def bitsAt (q : Nat → Bool) (p : Nat) (c : BitSeq) : BitSeq :=
  ((c.zipIdx p).filter fun x => q x.2).map Prod.fst

theorem hamData_eq_bitsAt (c : BitSeq) : hamData c = bitsAt (!isPow2 ·) 1 c := rfl

theorem groupXor_eq_bitsAt (c : BitSeq) (i : Nat) : groupXor c i = xorAll (bitsAt (·.testBit i) 1 c) := rfl

section BitsAt
variable {q : Nat → Bool} {p : Nat}

@[simp] theorem bitsAt_nil : bitsAt q p [] = [] := rfl

theorem bitsAt_cons (b : Bit) (c : BitSeq) :
    bitsAt q p (b :: c) = if q p then b :: bitsAt q (p + 1) c else bitsAt q (p + 1) c := by
  cases hq : q p <;> simp [bitsAt, hq]

theorem count_true_bitsAt (c : BitSeq) :
    (bitsAt q p c).count true = ((c.zipIdx p).filter fun x => x.1 && q x.2).length := by
  induction c generalizing p with
  | nil => rfl
  | cons b c ih => cases b <;> cases hq : q p <;> simp [bitsAt_cons, hq, ih]

theorem bitsAt_set_of_not {j : Nat} (hj : q (p + j) = false) (c : BitSeq) (b : Bit) :
    bitsAt q p (c.set j b) = bitsAt q p c := by
  induction c generalizing p j with
  | nil => rfl
  | cons a c ih =>
    cases j with
    | zero => simp_all [bitsAt_cons]
    | succ j => simp [bitsAt_cons, ih (p := p + 1) (j := j) (by rwa [Nat.add_right_comm])]

end BitsAt

theorem xorAll_cons (b : Bit) (c : BitSeq) : xorAll (b :: c) = (b ^^ xorAll c) := by
  induction c using List.reverseRecOn with
  | nil => simp [xorAll]
  | append_singleton c a ih =>
    rw [← List.cons_append, xorAll_append_one, ih, xorAll_append_one, Bool.xor_assoc]

/-- Setting a chosen position changes the xor of the chosen bits by the change of that bit. -/
theorem xorAll_bitsAt_set {q : Nat → Bool} {p j : Nat} (hq : q (p + j) = true) {c : BitSeq}
    (hj : j < c.length) (b : Bit) :
    xorAll (bitsAt q p (c.set j b)) = (xorAll (bitsAt q p c) ^^ (c.getD j false ^^ b)) := by
  induction c generalizing p j with
  | nil => cases hj
  | cons a c ih =>
    cases j with
    | zero =>
      rw [Nat.add_zero] at hq
      simp only [List.set_cons_zero, bitsAt_cons, hq, if_true, xorAll_cons, List.getD_cons_zero]
      cases a <;> cases b <;> simp
    | succ j =>
      have hrest := ih (p := p + 1) (j := j) (by rwa [Nat.add_right_comm]) (by simpa using hj)
      cases hp : q p <;> simp [bitsAt_cons, hp, xorAll_cons, hrest]

/-- A group's xor is the parity of its number of 1s. -/
theorem groupXor_toNat (c : BitSeq) (i : Nat) :
    (groupXor c i).toNat = ((c.zipIdx 1).filter fun x => x.1 && x.2.testBit i).length % 2 := by
  rw [groupXor_eq_bitsAt, xorAll_toNat, count_true_bitsAt]

/-! ## Placing the payload -/

@[simp] theorem length_hamPlace (n p : Nat) (m : BitSeq) : (hamPlace n p m).length = n := by
  induction n generalizing p m with
  | zero => rfl
  | succ n ih =>
    unfold hamPlace
    split
    · simp [ih]
    · cases m <;> simp [ih]

/-- With as many places as payload bits, the places hold the payload. -/
theorem bitsAt_hamPlace {n p : Nat} {m : BitSeq}
    (hm : ((List.range' p n).filter (!isPow2 ·)).length = m.length) :
    bitsAt (!isPow2 ·) p (hamPlace n p m) = m := by
  induction n generalizing p m with
  | zero => simpa [hamPlace, eq_comm] using hm
  | succ n ih =>
    rw [List.range'_succ] at hm
    cases hp : isPow2 p with
    | true => simpa [hamPlace, bitsAt_cons, hp] using ih (by simpa [hp] using hm)
    | false =>
      cases m with
      | nil => simp [hp] at hm
      | cons b m => simpa [hamPlace, bitsAt_cons, hp] using ih (by simpa [hp] using hm)

theorem getD_hamPlace_of_isPow2 {n p j : Nat} (hj : isPow2 (p + j) = true) (m : BitSeq) :
    (hamPlace n p m).getD j false = false := by
  induction n generalizing p j m with
  | zero => rfl
  | succ n ih =>
    cases j with
    | zero => simp [hamPlace, show isPow2 p = true from hj]
    | succ j =>
      have hrest := ih (p := p + 1) (j := j) (by rwa [Nat.add_right_comm])
      cases hp : isPow2 p <;> cases m <;> simpa [hamPlace, hp] using hrest _

/-! ## Setting the parity bits -/

/-- Position `2^i` as the start of a word and an index. -/
theorem one_add_two_pow_sub_one (i : Nat) : 1 + (2 ^ i - 1) = 2 ^ i := by
  have := Nat.one_le_two_pow (n := i)
  omega

theorem hamParities_succ (c : BitSeq) (r : Nat) :
    hamParities c (r + 1) = (hamParities c r).set (2 ^ r - 1) (groupXor c r) := by
  simp [hamParities, List.range_succ]

@[simp] theorem length_hamParities (c : BitSeq) (r : Nat) : (hamParities c r).length = c.length := by
  induction r with
  | zero => rfl
  | succ r ih => rw [hamParities_succ, List.length_set, ih]

theorem hamData_hamParities (c : BitSeq) (r : Nat) : hamData (hamParities c r) = hamData c := by
  induction r with
  | zero => rfl
  | succ r ih =>
    rw [hamParities_succ, hamData_eq_bitsAt, bitsAt_set_of_not (by simp [one_add_two_pow_sub_one])]
    exact ih

theorem getD_hamParities_of_le (c : BitSeq) {r i : Nat} (hi : r ≤ i) :
    (hamParities c r).getD (2 ^ i - 1) false = c.getD (2 ^ i - 1) false := by
  induction r with
  | zero => rfl
  | succ r ih =>
    have hpow : 2 ^ r < 2 ^ i := Nat.pow_lt_pow_right one_lt_two hi
    have hne : 2 ^ r - 1 ≠ 2 ^ i - 1 := by
      have := Nat.one_le_two_pow (n := r)
      omega
    rw [← ih (Nat.le_of_succ_le hi), hamParities_succ, List.getD_eq_getElem?_getD,
      List.getElem?_set_ne hne, List.getD_eq_getElem?_getD]

theorem groupXor_set_of_ne {i k : Nat} (h : k ≠ i) (c : BitSeq) (b : Bit) :
    groupXor (c.set (2 ^ k - 1) b) i = groupXor c i := by
  rw [groupXor_eq_bitsAt, bitsAt_set_of_not (by simp [one_add_two_pow_sub_one, h]),
    groupXor_eq_bitsAt]

theorem groupXor_set_self {i : Nat} {c : BitSeq} (hi : 2 ^ i ≤ c.length) (b : Bit) :
    groupXor (c.set (2 ^ i - 1) b) i = (groupXor c i ^^ (c.getD (2 ^ i - 1) false ^^ b)) := by
  have := Nat.one_le_two_pow (n := i)
  exact xorAll_bitsAt_set (q := (·.testBit i)) (by simp [one_add_two_pow_sub_one]) (by omega) b

/-- Of a word with 0 at its parity positions, setting the first `r` parity bits makes the first `r`
groups even and leaves the others: a parity position is in its own group only. -/
theorem groupXor_hamParities {c : BitSeq} {r : Nat} (hlen : ∀ k, k < r → 2 ^ k ≤ c.length)
    (hzero : ∀ k, k < r → c.getD (2 ^ k - 1) false = false) (i : Nat) :
    groupXor (hamParities c r) i = if i < r then false else groupXor c i := by
  induction r with
  | zero => rfl
  | succ r ih =>
    have hprev := ih (fun k hk => hlen k (by omega)) (fun k hk => hzero k (by omega))
    rw [hamParities_succ]
    by_cases hi : r = i
    · subst hi
      rw [groupXor_set_self (by simpa using hlen r (by omega)), getD_hamParities_of_le c le_rfl,
        hzero r (by omega), hprev]
      simp
    · rw [groupXor_set_of_ne hi, hprev]
      exact if_congr (by omega) rfl rfl

/-! ## The codeword -/

theorem length_protectHam (m : BitSeq) : (protectHam m).length = m.length + hamR m.length := by
  simp [protectHam]

theorem hamData_protectHam (m : BitSeq) : hamData (protectHam m) = m := by
  rw [protectHam, hamData_hamParities]
  exact bitsAt_hamPlace (length_filter_not_isPow2_codeword m.length)

theorem groupXor_protectHam {m : BitSeq} {i : Nat} (hi : i < hamR m.length) :
    groupXor (protectHam m) i = false := by
  rw [protectHam, groupXor_hamParities, if_pos hi]
  · intro k hk
    simpa using two_pow_le_codeword_length_iff.mpr hk
  · intro k _
    exact getD_hamPlace_of_isPow2 (by simp [one_add_two_pow_sub_one]) m

theorem exec_protectHam {s : State} {f : List Frame} (h : s.buf = .frames f) :
    exec .protectHam s = .next (doneState s (.frames (protectFrames protectHam f))) := onFrames_finish h _

/-! ## The statement -/

/-- Settles O52: the codeword is `protectHam`, its `r` is `hamR` of the length, and an even group is one
with xor 0. -/
theorem protectHamBuildsTheCodeword : Obligations.ProtectHamBuildsTheCodeword := by
  refine ⟨by decide, kindChecked_of_ne_modQam8 (by decide), fun s f h =>
    ⟨protectHam, exec_protectHam h, fun m => ?_⟩⟩
  obtain ⟨hmeets, hleast⟩ := hamR_spec m.length
  refine ⟨hamR m.length, hmeets, hleast, length_protectHam m, hamData_protectHam m, fun i hi => ?_⟩
  rw [← groupXor_toNat, groupXor_protectHam hi]
  rfl

end Sys2Proof.Machine
end

section
/-! The modulator (44_modulator.md R133): `MOD` on a buffer of bits with a needed parameter register
unwritten. The registers are needed in the order of their numbers, so the lowest unwritten one is named. -/

namespace Sys2Proof.Machine

section Needs
variable {s : State} {b : BitSeq} {p : Param} {v : Number}

/-- The fault of a needed parameter `p` that is unwritten. -/
def paramUnset (p : Param) : Raise := ⟨.paramUnset, 0, p.number⟩

theorem needParam_of_unwritten (h : s.param p = none) : s.needParam p = .error (paramUnset p) := by
  simp [State.needParam, h, paramUnset]

theorem needParam_of_written (h : s.param p = some v) : s.needParam p = .ok v := by
  simp [State.needParam, h]

theorem onBits_of_paramUnset {g : BitSeq → Except Raise State} (h : s.buf = .bits b)
    (hg : g b = .error (paramUnset p)) : onBits s g = .next (faultState s 0x03#8 0 p.number) := by
  rw [onBits_of_bits h, hg, settle_error, enterFault_eq_faultState]
  rfl

/-! ## The commands -/

theorem exec_modAsk_of_amp_unwritten (h : s.buf = .bits b) (ha : s.amp = none) :
    exec .modAsk s = .next (faultState s 0x03#8 0 8) :=
  onBits_of_paramUnset (p := .amp) h (by
    simp only [needParam_of_unwritten (p := .amp) ha])

theorem exec_modAsk_of_f_unwritten (h : s.buf = .bits b) (ha : s.amp = some v) (hf : s.f = none) :
    exec .modAsk s = .next (faultState s 0x03#8 0 9) :=
  onBits_of_paramUnset (p := .f) h (by
    simp only [needParam_of_written (p := .amp) ha, needParam_of_unwritten (p := .f) hf])

theorem exec_modFsk_of_amp_unwritten (h : s.buf = .bits b) (ha : s.amp = none) :
    exec .modFsk s = .next (faultState s 0x03#8 0 8) :=
  onBits_of_paramUnset (p := .amp) h (by
    simp only [needParam_of_unwritten (p := .amp) ha])

theorem exec_modFsk_of_f1_unwritten (h : s.buf = .bits b) (ha : s.amp = some v) (hf1 : s.f1 = none) :
    exec .modFsk s = .next (faultState s 0x03#8 0 10) :=
  onBits_of_paramUnset (p := .f1) h (by
    simp only [needParam_of_written (p := .amp) ha, needParam_of_unwritten (p := .f1) hf1])

theorem exec_modFsk_of_f2_unwritten {w : Number} (h : s.buf = .bits b) (ha : s.amp = some v)
    (hf1 : s.f1 = some w) (hf2 : s.f2 = none) :
    exec .modFsk s = .next (faultState s 0x03#8 0 11) :=
  onBits_of_paramUnset (p := .f2) h (by
    simp only [needParam_of_written (p := .amp) ha, needParam_of_written (p := .f1) hf1,
      needParam_of_unwritten (p := .f2) hf2])

theorem exec_modQam8_of_fmod_unwritten (h : s.buf = .bits b) (hq : s.hasQam8 = true)
    (hm : s.fmod = none) : exec .modQam8 s = .next (faultState s 0x03#8 0 12) :=
  (if_pos hq).trans <| onBits_of_paramUnset (p := .fmod) h (by
    simp only [needParam_of_unwritten (p := .fmod) hm])

end Needs

/-! ## The statement -/

/-- Settles O59: one rule per needed register, once the registers needed before it hold a value. -/
theorem modNeedsItsParameters : Obligations.ModNeedsItsParameters := by
  intro s b h
  refine ⟨fun ha => ⟨exec_modAsk_of_amp_unwritten h ha, exec_modFsk_of_amp_unwritten h ha⟩,
    fun ha hf => ?_, fun ha hf1 => ?_, fun ha hf1 hf2 => ?_, exec_modQam8_of_fmod_unwritten h⟩
  · obtain ⟨v, hv⟩ := Option.ne_none_iff_exists'.mp ha
    exact exec_modAsk_of_f_unwritten h hv hf
  · obtain ⟨v, hv⟩ := Option.ne_none_iff_exists'.mp ha
    exact exec_modFsk_of_f1_unwritten h hv hf1
  · obtain ⟨v, hv⟩ := Option.ne_none_iff_exists'.mp ha
    obtain ⟨w, hw⟩ := Option.ne_none_iff_exists'.mp hf1
    exact exec_modFsk_of_f2_unwritten h hv hw hf2

end Sys2Proof.Machine
end

section
/-! Fault entry is the only way a command leaves `STATUS.FAULT` set (60_exceptions.md R152): whatever
the pseudocode of a command computes has `FAULT` clear (10_state.md R17), so a next state with `FAULT`
set is one that `settle` made of a raise. -/

namespace Sys2Proof.Machine

section Computed
variable {s t : State}

/-- What a command's pseudocode computed, unless it raised a cause, has `STATUS.FAULT` clear. -/
def ComputesNoFault (x : Except Raise State) : Prop := ∀ t, x = .ok t → t.faultBit = false

/-! ## What the pseudocode computes -/

theorem computesNoFault_error (r : Raise) : ComputesNoFault (.error r) := fun _ h => nomatch h

theorem computesNoFault_ok (h : t.faultBit = false) : ComputesNoFault (.ok t) :=
  fun _ ht => Except.ok.inj ht ▸ h

theorem computesNoFault_finish (s : State) (b : Buf) : ComputesNoFault (.ok (s.finish b)) :=
  computesNoFault_ok (complete_faultBit s false false)

theorem computesNoFault_finishMod (s : State) (l : List Sample) :
    ComputesNoFault (.ok (s.finishMod l)) :=
  computesNoFault_ok (complete_faultBit s false false)

theorem finishCheck_faultBit (s : State) (rs : List Checked) : (s.finishCheck rs).faultBit = false :=
  complete_faultBit s _ _

theorem computesNoFault_finishDeframe (s : State) (x : Except Raise (List Frame)) :
    ComputesNoFault (s.finishDeframe x) := by
  cases x with
  | error r => exact computesNoFault_error r
  | ok f => exact computesNoFault_finish s _

/-! ## The operand forms -/

theorem onBits_enterFault {g : BitSeq → Except Raise State} (h : onBits s g = .next t)
    (hg : ∀ b, ComputesNoFault (g b)) (ht : t.faultBit = true) : ∃ r, t = s.enterFault r :=
  (onBits_next h).resolve_left fun ⟨b, _, hb⟩ => by simp [hg b t hb] at ht

theorem onSyms_enterFault {g : List SymCode → Except Raise State} (h : onSyms s g = .next t)
    (hg : ∀ y, ComputesNoFault (g y)) (ht : t.faultBit = true) : ∃ r, t = s.enterFault r :=
  (onSyms_next h).resolve_left fun ⟨y, _, hy⟩ => by simp [hg y t hy] at ht

theorem onFrames_enterFault {g : List Frame → Except Raise State} (h : onFrames s g = .next t)
    (hg : ∀ f, ComputesNoFault (g f)) (ht : t.faultBit = true) : ∃ r, t = s.enterFault r :=
  (onFrames_next h).resolve_left fun ⟨f, _, hf⟩ => by simp [hg f t hf] at ht

/-! ## The commands -/

/-- On a block without 8-QAM the command raises `IllegalCommand` before it reads `BUF` (R56, R154). -/
theorem exec_modQam8_enterFault (h : exec .modQam8 s = .next t) (ht : t.faultBit = true) :
    ∃ r, t = s.enterFault r := by
  cases hq : s.hasQam8 with
  | false =>
    rw [exec_modQam8_of_absent hq] at h
    exact ⟨illegalCommand, (Host.Outcome.next.inj h).symm⟩
  | true =>
    refine onBits_enterFault ((if_pos hq).symm.trans h) (fun b => ?_) ht
    split
    · exact computesNoFault_error _
    · exact computesNoFault_ok (complete_faultBit s false false)

/-- Command by command: what the pseudocode computes from its operand has `FAULT` clear, so `FAULT` set
is the mark of a raise. -/
theorem exec_enterFault {i : Instr} (h : exec i s = .next t) (ht : t.faultBit = true) :
    ∃ r, t = s.enterFault r := by
  cases i with
  | lencNrz | lencMan | lencAmi | lmapMan | splitCc | splitByte | splitBit =>
    exact onBits_enterFault h (fun _ => computesNoFault_finish s _) ht
  | ldecNrz | ldecAmi | lmapNrz | lmapAmi =>
    exact onSyms_enterFault h (fun _ => computesNoFault_finish s _) ht
  | protectPar | protectHam | wrapByte | wrapBit | wrapBith | join =>
    exact onFrames_enterFault h (fun _ => computesNoFault_finish s _) ht
  | protectCrc =>
    exact onFrames_enterFault h
      (fun _ => computesNoFault_ok (complete_faultBit s false false)) ht
  | deframeCc | deframeByte | deframeBit | deframeBith =>
    exact onBits_enterFault h (fun _ => computesNoFault_finishDeframe s _) ht
  | ldecMan =>
    refine onBits_enterFault h (fun y => ?_) ht
    split
    · exact computesNoFault_error _
    · exact computesNoFault_finish s _
  | wrapCc =>
    refine onFrames_enterFault h (fun f => ?_) ht
    split
    · exact computesNoFault_error _
    · exact computesNoFault_finish s _
  | checkPar | checkCrc | checkHam =>
    refine onFrames_enterFault h (fun f => ?_) ht
    split
    · exact computesNoFault_error _
    · exact computesNoFault_ok (finishCheck_faultBit s _)
  | modAsk =>
    refine onBits_enterFault h (fun b => ?_) ht
    split
    · exact computesNoFault_error _
    split
    · exact computesNoFault_error _
    · exact computesNoFault_finishMod s _
  | modFsk =>
    refine onBits_enterFault h (fun b => ?_) ht
    split
    · exact computesNoFault_error _
    split
    · exact computesNoFault_error _
    split
    · exact computesNoFault_error _
    · exact computesNoFault_finishMod s _
  | modQam8 => exact exec_modQam8_enterFault h ht

end Computed

/-! ## The statement -/

/-- Settles O8: a command that leaves `FAULT` set has entered a fault, and fault entry writes the four
status registers only. -/
theorem faultingCommandsWriteOnlyTheStatusRegisters :
    Obligations.FaultingCommandsWriteOnlyTheStatusRegisters := by
  intro i s t h ht
  obtain ⟨r, rfl⟩ := exec_enterFault h ht
  exact ⟨r.cause, r.finfo, r.fpos, enterFault_eq_faultState s r⟩

end Sys2Proof.Machine
end

section
/-! What a command can leave, said once for all commands: a fault entry, or one of the forms in which a
command ends without fault (10_state.md R16 to R24, 42_parity_crc.md R100, 44_modulator.md R134). The
frame of the commands and their status registers follow from it. -/

namespace Sys2Proof.Machine

/-! ## How a command can end without fault -/

/-- The states command `i` can leave that ends without fault, from `s`: `BUF` replaced by a value of the
output kind, and besides it what the command's own rule writes. -/
inductive Completes (s : State) : Instr → State → Prop
  | finish {i : Instr} (b : Buf) (hkind : b.kind = i.outKind) (hop : i.op ≠ .mod) :
    Completes s i (s.finish b)
  | protectCrc (f : List Frame) (fills : List Byte) (rem : BitVec 32) :
    Completes s .protectCrc { s.finish (.frames f) with filltab := fills, crcrem := rem }
  | checkPar (rs : List Checked) (hcor : ∀ r ∈ rs, r.cor = false) :
    Completes s .checkPar (s.finishCheck rs)
  | checkCrc (rs : List Checked) (rem : BitVec 32) (hcor : ∀ r ∈ rs, r.cor = false) :
    Completes s .checkCrc { s.finishCheck rs with crcrem := rem }
  | checkHam (rs : List Checked) (syn : Nat) (happart : ∀ r ∈ rs, r.err = true → r.cor = false) :
    Completes s .checkHam { s.finishCheck rs with syn := syn }
  | mod {i : Instr} (l : List Sample) (hbuf : s.buf.kind = .bits) (hop : i.op = .mod)
    (hslots : l.length % 100 = 0) : Completes s i (s.finishMod l)
  | modQam8 (l : List Sample) (n : Nat) (time : List Rat) (hbuf : s.buf.kind = .bits)
    (hqam : s.hasQam8 = true) (hslots : l.length % 100 = 0) (htime : time.length = 100 * n) :
    Completes s .modQam8 { s.finishMod l with sigNsym := n, sigTime := time }

/-! ## What the checks and the modulator give -/

/-- A property of every frame's result is one of all results. -/
theorem forall_mem_of_forFrames {α : Type} {P : α → Prop} {g : Nat → Frame → Except Raise α}
    (hg : ∀ k x a, g k x = .ok a → P a) :
    ∀ {k : Nat} {f : List Frame} {l : List α}, forFrames g k f = .ok l → ∀ a ∈ l, P a
  | _, [], l, h => by simp_all [forFrames]
  | k, x :: fs, l, h => by
    simp only [forFrames] at h
    split at h
    · cases h
    · next a ha =>
      split at h
      · cases h
      · next as has =>
        cases h
        exact List.forall_mem_cons.mpr ⟨hg k x a ha, forall_mem_of_forFrames hg has⟩

theorem checkParFrame_cor {k : Nat} {x : Frame} {r : Checked} (h : checkParFrame k x = .ok r) :
    r.cor = false := by
  unfold checkParFrame at h
  split at h
  · cases h
  · split at h <;> cases h
    rfl

theorem checkCrcFrame_cor {t : List Byte} {k : Nat} {x : Frame} {r : Checked × BitVec 32}
    (h : checkCrcFrame t k x = .ok r) : r.1.cor = false := by
  unfold checkCrcFrame at h
  split at h
  · cases h
  · split at h
    · cases h
    · dsimp only at h
      split at h <;> cases h
      rfl

/-- R122: what is reported as uncorrectable is not corrected. -/
theorem checkHam_apart (c : BitSeq) : (checkHam c).1.err = true → (checkHam c).1.cor = false := by
  unfold checkHam
  dsimp only
  split_ifs <;> simp

theorem checkHamFrame_apart {k : Nat} {x : Frame} {r : Checked × Nat} (h : checkHamFrame k x = .ok r) :
    r.1.err = true → r.1.cor = false := by
  unfold checkHamFrame at h
  split at h <;> cases h
  exact checkHam_apart _

@[simp] theorem length_slot {α : Type} (g : Nat → α) : (slot g).length = 100 := by
  simp [slot]

/-- As many slots as bits or symbols, of 100 samples each. -/
theorem length_flatMap_slots {α β : Type} {g : α → List β} (hg : ∀ a, (g a).length = 100)
    (l : List α) : (l.flatMap g).length = 100 * l.length := by
  simp [List.length_flatMap, hg, Nat.mul_comm]

theorem length_modAsk (amp freq : Number) (b : BitSeq) :
    (modAsk amp freq b).length = 100 * b.length :=
  length_flatMap_slots (fun x => by cases x <;> exact length_slot _) b

theorem length_modFsk (amp freq1 freq2 : Number) (b : BitSeq) :
    (modFsk amp freq1 freq2 b).length = 100 * b.length :=
  length_flatMap_slots (fun _ => length_slot _) b

theorem length_qamSamples (freq : Number) (a : List QamPoint) :
    (qamSamples freq a).length = 100 * a.length :=
  length_flatMap_slots (fun _ => length_slot _) a

theorem length_qamTime (n : Nat) : (qamTime n).length = 100 * n := by
  rw [qamTime, length_flatMap_slots fun _ => length_slot _]
  simp

/-! ## The inversion of `exec` -/

section Inversion
variable {i : Instr} {s t : State}

theorem execModQam8_next (h : exec .modQam8 s = .next t) :
    (∃ r, t = s.enterFault r) ∨ Completes s .modQam8 t := by
  cases hq : s.hasQam8 with
  | false =>
    rw [exec_modQam8_of_absent hq] at h
    exact .inl ⟨illegalCommand, (Host.Outcome.next.inj h).symm⟩
  | true =>
    refine (onBits_next ((if_pos hq).symm.trans h)).symm.imp_right fun ⟨b, hbuf, hb⟩ => ?_
    split at hb <;> cases hb
    exact .modQam8 _ _ _ (by rw [hbuf]; rfl) hq (by simp [length_qamSamples]) (length_qamTime _)

/-- Command by command: a raise becomes a fault entry, and what the pseudocode computes without one has
the command's own form. -/
theorem exec_next (h : exec i s = .next t) : (∃ r, t = s.enterFault r) ∨ Completes s i t := by
  cases i with
  | lencNrz | lencMan | lencAmi | lmapMan | splitCc | splitByte | splitBit =>
    exact (onBits_next h).symm.imp_right fun ⟨b, _, hb⟩ =>
      Except.ok.inj hb ▸ .finish _ rfl (by decide)
  | ldecNrz | ldecAmi | lmapNrz | lmapAmi =>
    exact (onSyms_next h).symm.imp_right fun ⟨y, _, hy⟩ =>
      Except.ok.inj hy ▸ .finish _ rfl (by decide)
  | protectPar | protectHam | wrapByte | wrapBit | wrapBith | join =>
    exact (onFrames_next h).symm.imp_right fun ⟨f, _, hf⟩ =>
      Except.ok.inj hf ▸ .finish _ rfl (by decide)
  | protectCrc =>
    exact (onFrames_next h).symm.imp_right fun ⟨f, _, hf⟩ =>
      Except.ok.inj hf ▸ .protectCrc _ _ _
  | ldecMan =>
    refine (onBits_next h).symm.imp_right fun ⟨b, _, hb⟩ => ?_
    split at hb <;> cases hb
    exact .finish _ rfl (by decide)
  | deframeCc | deframeByte | deframeBit | deframeBith =>
    refine (onBits_next h).symm.imp_right fun ⟨b, _, hb⟩ => ?_
    unfold State.finishDeframe at hb
    split at hb <;> cases hb
    exact .finish _ rfl (by decide)
  | wrapCc =>
    refine (onFrames_next h).symm.imp_right fun ⟨f, _, hf⟩ => ?_
    split at hf <;> cases hf
    exact .finish _ rfl (by decide)
  | checkPar =>
    refine (onFrames_next h).symm.imp_right fun ⟨f, _, hf⟩ => ?_
    split at hf
    · cases hf
    · next rs hrs =>
      cases hf
      exact .checkPar _ (forall_mem_of_forFrames (fun _ _ _ => checkParFrame_cor) hrs)
  | checkCrc =>
    refine (onFrames_next h).symm.imp_right fun ⟨f, _, hf⟩ => ?_
    split at hf
    · cases hf
    · next rs hrs =>
      cases hf
      exact .checkCrc _ _ (List.forall_mem_map.mpr
        (forall_mem_of_forFrames (fun _ _ _ => checkCrcFrame_cor) hrs))
  | checkHam =>
    refine (onFrames_next h).symm.imp_right fun ⟨f, _, hf⟩ => ?_
    split at hf
    · cases hf
    · next rs hrs =>
      cases hf
      exact .checkHam _ _ (List.forall_mem_map.mpr
        (forall_mem_of_forFrames (fun _ _ _ => checkHamFrame_apart) hrs))
  | modAsk =>
    refine (onBits_next h).symm.imp_right fun ⟨b, hbuf, hb⟩ => ?_
    split at hb
    · cases hb
    · split at hb <;> cases hb
      exact .mod _ (by rw [hbuf]; rfl) rfl (by simp [length_modAsk])
  | modFsk =>
    refine (onBits_next h).symm.imp_right fun ⟨b, hbuf, hb⟩ => ?_
    split at hb
    · cases hb
    · split at hb
      · cases hb
      · split at hb <;> cases hb
        exact .mod _ (by rw [hbuf]; rfl) rfl (by simp [length_modFsk])
  | modQam8 => exact execModQam8_next h

/-- Every command ends by settling what its pseudocode computed. -/
theorem exec_has_next (i : Instr) (s : State) : ∃ t, exec i s = .next t := by
  cases i with
  | modQam8 =>
    cases hq : s.hasQam8 with
    | false => exact ⟨_, exec_modQam8_of_absent hq⟩
    | true =>
      obtain ⟨g, hg⟩ := execModQam8_eq_onBits hq
      obtain ⟨t, ht⟩ := settle_has_next s _
      exact ⟨t, hg.trans ht⟩
  | _ => exact settle_has_next s _

end Inversion

/-! ## Status bits of a command that ends without fault -/

theorem statusDone_high (x : BitVec 8) (err cor : Bool) :
    statusDone x err cor &&& 0xF8#8 = x &&& 0xF8#8 := by
  have hlow : ((if err then 0x02#8 else 0#8) ||| (if cor then 0x04#8 else 0#8)) &&& 0xF8#8 = 0#8 := by
    cases err <;> cases cor <;> decide
  rw [statusDone, BitVec.or_assoc, BitVec.and_or_distrib_right, hlow]
  simp [BitVec.and_assoc]

section Completed
variable {i : Instr} {s t : State}

/-- The status registers after a command without fault, for the summary flags it gives. -/
theorem Completes.status_registers (h : Completes s i t) :
    t.cause = 0#8 ∧ t.finfo = 0 ∧ t.fpos = 0 ∧ ∃ err cor, t.status = statusDone s.status err cor ∧
      (err = true → i.op = .check) ∧ (cor = true → i = .checkHam) := by
  cases h with
  | finish | protectCrc | mod | modQam8 => exact ⟨rfl, rfl, rfl, false, false, rfl, nofun, nofun⟩
  | checkPar rs hcor => exact ⟨rfl, rfl, rfl, _, _, rfl, fun _ => rfl, by simp_all⟩
  | checkCrc rs rem hcor => exact ⟨rfl, rfl, rfl, _, _, rfl, fun _ => rfl, by simp_all⟩
  | checkHam => exact ⟨rfl, rfl, rfl, _, _, rfl, fun _ => rfl, fun _ => rfl⟩

theorem outKind_of_mod (h : i.op = .mod) : i.outKind = .bits := by
  cases i with
  | modAsk | modFsk | modQam8 => rfl
  | _ => cases h

theorem Completes.buf_kind (h : Completes s i t) : t.buf.kind = i.outKind := by
  cases h with
  | finish b hkind hop => exact hkind
  | mod l hbuf hop => rw [outKind_of_mod hop]; exact hbuf
  | modQam8 l n time hbuf => exact hbuf
  | protectCrc | checkPar | checkCrc | checkHam => rfl

theorem Completes.faultBit (h : Completes s i t) : t.faultBit = false := by
  obtain ⟨-, -, -, err, cor, hstatus, -⟩ := h.status_registers
  rw [State.faultBit, hstatus]
  exact (statusDone_bits s.status err cor).1

theorem Completes.sfBit (h : Completes s i t) : t.sfBit = s.sfBit := by
  obtain ⟨-, -, -, err, cor, hstatus, -⟩ := h.status_registers
  rw [State.sfBit, hstatus]
  exact (statusDone_bits s.status err cor).2.2.2

theorem completes_of_exec (h : exec i s = .next t) (ht : t.faultBit = false) : Completes s i t :=
  (exec_next h).resolve_left fun ⟨r, hr⟩ => by simp [hr] at ht

end Completed

/-! ## The statements -/

/-- Settles O7. -/
theorem everyCommandHasANextState : Obligations.EveryCommandHasANextState := exec_has_next

/-- Settles O9: the status is `statusDone` of the old one for the flags of the command's form. -/
theorem completedCommandsClearTheStatusRegisters :
    Obligations.CompletedCommandsClearTheStatusRegisters := by
  intro i s t h ht
  have hc := completes_of_exec h ht
  obtain ⟨hcause, hfinfo, hfpos, err, cor, hstatus, herr, hcor⟩ := hc.status_registers
  obtain ⟨-, herrBit, hcorBit, -⟩ := statusDone_bits s.status err cor
  refine ⟨hcause, hfinfo, hfpos, by rw [hstatus, statusDone_high], hc.buf_kind, fun he => herr ?_,
    fun hk => hcor ?_⟩
  · rwa [State.errBit, hstatus, herrBit] at he
  · rwa [State.corBit, hstatus, hcorBit] at hk

/-- Settles O10: a fault entry and each form of a command without fault leave what they do not write. -/
theorem eachRegisterHasItsOwnWriters : Obligations.EachRegisterHasItsOwnWriters := by
  intro i s t h
  rcases exec_next h with ⟨r, rfl⟩ | hc
  · simp
  · cases hc with
    | finish b hkind hop => simp [hop]
    | mod l hbuf hop => simp [hop]
    | protectCrc | checkPar | checkCrc | checkHam | modQam8 => simp [Instr.op]

end Sys2Proof.Machine
end

section
/-! The machine's invariant and the sticky fault flag (10_state.md section 4, 60_exceptions.md R162): the
fault entry, every form of a command without fault and every host action keep them. -/

namespace Sys2Proof.Machine

/-! ## What the invariant speaks of -/

/-- The registers the invariant of the status speaks of are as before. -/
structure KeepsStatus (s t : State) : Prop where
  status : t.status = s.status
  cause  : t.cause = s.cause
  finfo  : t.finfo = s.finfo
  fpos   : t.fpos = s.fpos
  eflags : t.eflags = s.eflags

/-- The signal buffers are as before, and `FMOD` is unless the block has it. -/
structure KeepsSignal (s t : State) : Prop where
  sig     : t.sig = s.sig
  sigNsym : t.sigNsym = s.sigNsym
  sigTime : t.sigTime = s.sigTime
  hasQam8 : t.hasQam8 = s.hasQam8
  fmod    : s.hasQam8 = false → t.fmod = s.fmod

section Host
variable {s t : State} {a : HostAction}

/-- Nothing the invariant speaks of has changed. -/
abbrev Quiet (s t : State) : Prop := KeepsStatus s t ∧ KeepsSignal s t

/-- What the invariant does not speak of can change. -/
theorem quiet_update (s : State) (buf : Buf) (filltab : List Byte) (amp f f1 f2 : Option Number)
    (host : List HostAction) (readLog : List ReadValue) (freeCount : Nat) :
    Quiet s { s with
      buf := buf, filltab := filltab, amp := amp, f := f, f1 := f1, f2 := f2, host := host,
      readLog := readLog, freeCount := freeCount } :=
  ⟨⟨rfl, rfl, rfl, rfl, rfl⟩, rfl, rfl, rfl, rfl, fun _ => rfl⟩

theorem quiet_writeParam (s : State) (p : Param) (v : Number) : Quiet s (s.writeParam p v) := by
  unfold State.writeParam
  split
  · next hp =>
    cases p with
    | fmod =>
      exact ⟨⟨rfl, rfl, rfl, rfl, rfl⟩, rfl, rfl, rfl, rfl, fun hq => by simp_all [State.hasParam]⟩
    | _ => exact quiet_update s ..
  · exact quiet_update s ..

theorem quiet_writeKind (s : State) (c : BitVec 2) : Quiet s (s.writeKind c) := by
  unfold State.writeKind
  split
  · exact quiet_update s ..
  · split <;> exact quiet_update s ..

theorem quiet_flip (s : State) (j : Nat) : Quiet s (s.flip j) := by
  unfold State.flip
  split <;> exact quiet_update s ..

theorem quiet_stopOnFault (s : State) : Quiet s s.stopOnFault := by
  unfold State.stopOnFault
  split <;> exact quiet_update s ..

/-! ## What a host action can do -/

theorem issue_next {w : Byte} (h : issue s w = .next t) :
    (∃ i, exec i s = .next t) ∨ ∃ r, t = s.enterFault r := by
  unfold issue at h
  split at h
  · next i _ => exact .inl ⟨i, h⟩
  · exact .inr ⟨illegalCommand, (Host.Outcome.next.inj h).symm⟩

/-- What a host action can do to the block. -/
inductive HostEffect (s : State) (a : HostAction) : State → Prop
  /-- It issues a command that ends without fault. -/
  | completes {i : Instr} {t : State} (h : Completes s i t) : HostEffect s a t
  /-- It issues a command that faults, or a reserved word. -/
  | fault (r : Raise) : HostEffect s a (s.enterFault r)
  /-- It delivers the reset event. -/
  | reset (h : a = .reset) : HostEffect s a s.resetEvent
  /-- It leaves the status registers and the signal alone. -/
  | quiet {t : State} (h : Quiet s t) : HostEffect s a t

theorem issue_effect {w : Byte} (h : issue s w = .next t) : HostEffect s a t := by
  rcases issue_next h with ⟨i, hi⟩ | ⟨r, rfl⟩
  · rcases exec_next hi with ⟨r, rfl⟩ | hc
    · exact .fault r
    · exact .completes hc
  · exact .fault r

theorem hostAct_effect (h : hostAct s a = .next t) : HostEffect s a t := by
  cases a with
  | write w =>
    cases w with
    | cmd w => exact issue_effect h
    | readOnly | reserved => cases h; exact .quiet (quiet_update s ..)
    | kind c => cases h; exact .quiet (quiet_writeKind s c)
    | param p v => cases h; exact .quiet (quiet_writeParam s p v)
  | read | loadBuf | setFilltab => cases h; exact .quiet (quiet_update s ..)
  | flip j => cases h; exact .quiet (quiet_flip s j)
  | reset => cases h; exact .reset rfl
  | stopOnFault => cases h; exact .quiet (quiet_stopOnFault s)

/-- A step is idle or performs the first of the host's actions. -/
theorem step_next (h : step s = .next t) :
    (s.host = [] ∧ t = s) ∨
      ∃ a rest, s.host = a :: rest ∧ HostEffect { s with host := rest } a t := by
  cases hh : s.host with
  | nil => exact .inl ⟨rfl, (Host.Outcome.next.inj ((step_idle hh).symm.trans h)).symm⟩
  | cons a rest => exact .inr ⟨a, rest, rfl, hostAct_effect ((step_act hh).symm.trans h)⟩

end Host

/-! ## Each way on keeps the invariant -/

section Invariant
variable {s t : State}

theorem statusInv_of_keeps (h : StatusInv s) (hk : KeepsStatus s t) : StatusInv t := by
  obtain ⟨hstatus, hcause, hfinfo, hfpos, heflags⟩ := hk
  obtain ⟨h1, h2, h3, h4, h5, h6, h7, h8, h9⟩ := h
  constructor <;>
    simpa only [State.faultBit, State.sfBit, State.errBit, State.corBit, hstatus, hcause, hfinfo, hfpos,
      heflags]

theorem signalInv_of_keeps (h : SignalInv s) (hk : KeepsSignal s t) : SignalInv t := by
  obtain ⟨hsig, hnsym, htime, hqam, hfmod⟩ := hk
  refine ⟨hsig ▸ h.sigSlots, by rw [htime, hnsym]; exact h.timeSlots, fun hq => ?_⟩
  rw [hqam] at hq
  rw [hfmod hq, hnsym, htime]
  exact h.qamAbsent hq

theorem stateInv_of_quiet (h : StateInv s) (hq : Quiet s t) : StateInv t :=
  ⟨statusInv_of_keeps h.1 hq.1, signalInv_of_keeps h.2 hq.2⟩

/-- The four reserved bits stay 0 when only the low four are rewritten. -/
theorem reserved_of_low {x y : BitVec 8} (h : x &&& 0xF0#8 = 0#8) (hy : y &&& 0xF0#8 = 0#8) :
    ((x &&& 0xF8#8) ||| y) &&& 0xF0#8 = 0#8 := by
  rw [BitVec.and_or_distrib_right, hy, BitVec.and_assoc, show 0xF8#8 &&& 0xF0#8 = 0xF0#8 by decide, h]
  rfl

/-- A fault entry: the cause is no 0, `SF` is set with `FAULT`, and `ERR` and `COR` are clear. -/
theorem statusInv_enterFault (h : StatusInv s) (r : Raise) : StatusInv (s.enterFault r) := by
  obtain ⟨hfault, herr, hcor, hsf⟩ := statusFault_bits s.status
  have hcode : r.cause.code ≠ 0#8 := by cases r.cause <;> decide
  exact {
    reservedZero := reserved_of_low h.reservedZero (by decide)
    faultSticky := fun _ => hsf
    faultAlone := fun _ => ⟨herr, hcor⟩
    causeFault := by simp [hcode]
    causeKnown := .inr ⟨r.cause, rfl⟩
    quietInfo := by simp
    errBacked := fun he => by simp_all [State.errBit]
    corBacked := fun hc => by simp_all [State.corBit]
    flagsApart := h.flagsApart }

/-- The end without fault: the status rests on the new `EFLAGS`. -/
theorem statusInv_complete (h : s.status &&& 0xF0#8 = 0#8) {err cor : Bool}
    (hstatus : t.status = statusDone s.status err cor) (hcause : t.cause = 0#8) (hfinfo : t.finfo = 0)
    (hfpos : t.fpos = 0) (herr : err = true → ∃ e ∈ t.eflags, e.getLsbD 0 = true)
    (hcor : cor = true → ∃ e ∈ t.eflags, e.getLsbD 1 = true) (hapart : ∀ e ∈ t.eflags, e ≠ 3#2) :
    StatusInv t := by
  obtain ⟨hfault, herrBit, hcorBit, -⟩ := statusDone_bits s.status err cor
  rw [← hstatus] at hfault herrBit hcorBit
  have hlow : ((if err then 0x02#8 else 0#8) ||| (if cor then 0x04#8 else 0#8)) &&& 0xF0#8 = 0#8 := by
    cases err <;> cases cor <;> decide
  have hnot : t.faultBit ≠ true := by rw [State.faultBit, hfault]; decide
  exact {
    reservedZero := by
      rw [hstatus, statusDone, BitVec.or_assoc]
      exact reserved_of_low h hlow
    faultSticky := fun hf => absurd hf hnot
    faultAlone := fun hf => absurd hf hnot
    causeFault := by simpa [hcause] using hnot
    causeKnown := .inl hcause
    quietInfo := fun _ => ⟨hfinfo, hfpos⟩
    errBacked := fun he => herr (herrBit.symm.trans he)
    corBacked := fun hc => hcor (hcorBit.symm.trans hc)
    flagsApart := hapart }

/-- A `CHECK`: the summary flags are the or of the entries of the new `EFLAGS`. -/
theorem statusInv_finishCheck (h : s.status &&& 0xF0#8 = 0#8) {rs : List Checked}
    (hapart : ∀ r ∈ rs, r.err = true → r.cor = false) : StatusInv (s.finishCheck rs) := by
  refine statusInv_complete h rfl rfl rfl rfl (fun herr => ?_) (fun hcor => ?_) ?_
  · obtain ⟨r, hr, he⟩ := List.any_eq_true.mp herr
    exact ⟨_, List.mem_map_of_mem hr, by cases hc : r.cor <;> simp [eflag, he]⟩
  · obtain ⟨r, hr, hc⟩ := List.any_eq_true.mp hcor
    exact ⟨_, List.mem_map_of_mem hr, by cases he : r.err <;> simp [eflag, hc]⟩
  · refine List.forall_mem_map.mpr fun r hr => ?_
    have := hapart r hr
    cases he : r.err <;> cases hc : r.cor <;> simp_all [eflag]

/-- The end of a command other than `CHECK`: `ERR` and `COR` are clear. -/
theorem statusInv_quietEnd (h : StatusInv s) (hstatus : t.status = statusDone s.status false false)
    (hcause : t.cause = 0#8) (hfinfo : t.finfo = 0) (hfpos : t.fpos = 0) (heflags : t.eflags = s.eflags) :
    StatusInv t :=
  statusInv_complete h.reservedZero hstatus hcause hfinfo hfpos nofun nofun (heflags ▸ h.flagsApart)

theorem stateInv_enterFault (h : StateInv s) (r : Raise) : StateInv (s.enterFault r) :=
  ⟨statusInv_enterFault h.1 r, signalInv_of_keeps h.2 ⟨rfl, rfl, rfl, rfl, fun _ => rfl⟩⟩

theorem stateInv_completes {i : Instr} (h : StateInv s) (hc : Completes s i t) : StateInv t := by
  obtain ⟨hst, hsig⟩ := h
  cases hc with
  | finish | protectCrc =>
    exact ⟨statusInv_quietEnd hst rfl rfl rfl rfl rfl,
      signalInv_of_keeps hsig ⟨rfl, rfl, rfl, rfl, fun _ => rfl⟩⟩
  | checkPar rs hcor =>
    exact ⟨statusInv_finishCheck hst.reservedZero fun r hr _ => hcor r hr,
      signalInv_of_keeps hsig ⟨rfl, rfl, rfl, rfl, fun _ => rfl⟩⟩
  | checkCrc rs rem hcor =>
    exact ⟨statusInv_of_keeps (statusInv_finishCheck hst.reservedZero fun r hr _ => hcor r hr)
      ⟨rfl, rfl, rfl, rfl, rfl⟩, signalInv_of_keeps hsig ⟨rfl, rfl, rfl, rfl, fun _ => rfl⟩⟩
  | checkHam rs syn hapart =>
    exact ⟨statusInv_of_keeps (statusInv_finishCheck hst.reservedZero hapart)
      ⟨rfl, rfl, rfl, rfl, rfl⟩, signalInv_of_keeps hsig ⟨rfl, rfl, rfl, rfl, fun _ => rfl⟩⟩
  | mod l hbuf hop hslots =>
    exact ⟨statusInv_quietEnd hst rfl rfl rfl rfl rfl, hslots, hsig.timeSlots, hsig.qamAbsent⟩
  | modQam8 l n time hbuf hqam hslots htime =>
    exact ⟨statusInv_quietEnd hst rfl rfl rfl rfl rfl, hslots, htime, fun hq => by simp_all⟩

theorem statusInv_reset : StatusInv State.reset :=
  ⟨by decide, by decide, by decide, by decide, .inl rfl, by decide, by decide, by decide, by decide⟩

theorem signalInv_reset : SignalInv State.reset := ⟨by decide, by decide, by decide⟩

/-- The reset event keeps whether the block has 8-QAM, and leaves nothing of it. -/
theorem stateInv_resetEvent (s : State) : StateInv s.resetEvent :=
  ⟨statusInv_of_keeps statusInv_reset ⟨rfl, rfl, rfl, rfl, rfl⟩, rfl, rfl,
    fun _ => ⟨rfl, rfl, rfl⟩⟩

end Invariant

/-! ## The statements -/

/-- Settles O12: a step is idle or one host action, and what that can do keeps the invariant. -/
theorem stepKeepsTheInvariant : Obligations.StepKeepsTheInvariant := by
  intro s t hs h
  rcases step_next h with ⟨-, rfl⟩ | ⟨a, rest, -, ha⟩
  · exact hs
  · have hrest : StateInv { s with host := rest } := stateInv_of_quiet hs (quiet_update s ..)
    cases ha with
    | completes hc => exact stateInv_completes hrest hc
    | fault r => exact stateInv_enterFault hrest r
    | reset => exact stateInv_resetEvent _
    | quiet hq => exact stateInv_of_quiet hrest hq

/-- Settles O13. -/
theorem resetMeetsTheInvariant : Obligations.ResetMeetsTheInvariant := ⟨statusInv_reset, signalInv_reset⟩

end Sys2Proof.Machine
end

section
/-! No command reads `STATUS` (10_state.md R17): run with another `STATUS` before, it computes the same
but for the bits of `STATUS` it keeps. With it, what becomes of the sticky fault flag (60_exceptions.md
R162). -/

namespace Sys2Proof.Machine

/-- `u` is `t` but for `STATUS`, and has the three bits of it that a command rewrites. -/
structure SameButStatus (t u : State) : Prop where
  rest : { u with status := t.status } = t
  faultBit : u.faultBit = t.faultBit
  errBit : u.errBit = t.errBit
  corBit : u.corBit = t.corBit

/-- The same was computed, but for `STATUS`, or the same was raised. -/
inductive Agree : Except Raise State → Except Raise State → Prop
  | ok {t u : State} (h : SameButStatus t u) : Agree (.ok t) (.ok u)
  | error (r : Raise) : Agree (.error r) (.error r)

section Agreement
variable {s t : State} {x : BitVec 8}

/-! ## What the pseudocode computes -/

theorem sameButStatus_of_done {u : State} {err cor : Bool} {y : BitVec 8}
    (hrest : { u with status := t.status } = t) (ht : t.status = statusDone y err cor)
    (hu : u.status = statusDone x err cor) : SameButStatus t u := by
  obtain ⟨ht0, ht1, ht2, -⟩ := statusDone_bits y err cor
  obtain ⟨hu0, hu1, hu2, -⟩ := statusDone_bits x err cor
  constructor
  · exact hrest
  · rw [State.faultBit, State.faultBit, ht, hu, ht0, hu0]
  · rw [State.errBit, State.errBit, ht, hu, ht1, hu1]
  · rw [State.corBit, State.corBit, ht, hu, ht2, hu2]

theorem sameButStatus_enterFault (s : State) (x : BitVec 8) (r : Raise) :
    SameButStatus (s.enterFault r) ({ s with status := x }.enterFault r) := by
  obtain ⟨hs0, hs1, hs2, -⟩ := statusFault_bits s.status
  obtain ⟨hx0, hx1, hx2, -⟩ := statusFault_bits x
  exact ⟨rfl, hx0.trans hs0.symm, hx1.trans hs1.symm, hx2.trans hs2.symm⟩

theorem agree_finish (s : State) (x : BitVec 8) (b : Buf) :
    Agree (.ok (s.finish b)) (.ok ({ s with status := x }.finish b)) :=
  .ok (sameButStatus_of_done rfl rfl rfl)

theorem agree_finishMod (s : State) (x : BitVec 8) (l : List Sample) :
    Agree (.ok (s.finishMod l)) (.ok ({ s with status := x }.finishMod l)) :=
  .ok (sameButStatus_of_done rfl rfl rfl)

theorem agree_finishDeframe (s : State) (x : BitVec 8) (y : Except Raise (List Frame)) :
    Agree (s.finishDeframe y) ({ s with status := x }.finishDeframe y) := by
  cases y with
  | error r => exact .error r
  | ok f => exact agree_finish s x _

/-! ## The operand forms -/

theorem settle_agree {a b : Except Raise State} (hab : Agree a b) (h : s.settle a = .next t) :
    ∃ u, State.settle { s with status := x } b = .next u ∧ SameButStatus t u := by
  cases hab with
  | ok hsame => cases h; exact ⟨_, rfl, hsame⟩
  | error r => cases h; exact ⟨_, rfl, sameButStatus_enterFault s x r⟩

theorem onBits_agree {g g' : BitSeq → Except Raise State} (hg : ∀ b, Agree (g b) (g' b))
    (h : onBits s g = .next t) : ∃ u, onBits { s with status := x } g' = .next u ∧ SameButStatus t u := by
  refine settle_agree ?_ h
  cases s.buf with
  | bits b => exact hg b
  | syms | frames => exact .error _

theorem onSyms_agree {g g' : List SymCode → Except Raise State} (hg : ∀ y, Agree (g y) (g' y))
    (h : onSyms s g = .next t) : ∃ u, onSyms { s with status := x } g' = .next u ∧ SameButStatus t u := by
  refine settle_agree ?_ h
  cases s.buf with
  | syms y => exact hg y
  | bits | frames => exact .error _

theorem onFrames_agree {g g' : List Frame → Except Raise State} (hg : ∀ f, Agree (g f) (g' f))
    (h : onFrames s g = .next t) :
    ∃ u, onFrames { s with status := x } g' = .next u ∧ SameButStatus t u := by
  refine settle_agree ?_ h
  cases s.buf with
  | frames f => exact hg f
  | bits | syms => exact .error _

/-! ## The commands -/

@[simp] theorem needParam_status (s : State) (x : BitVec 8) (p : Param) :
    State.needParam { s with status := x } p = s.needParam p := by
  cases p <;> rfl

theorem exec_modAsk_agree (h : exec .modAsk s = .next t) :
    ∃ u, exec .modAsk { s with status := x } = .next u ∧ SameButStatus t u := by
  refine onBits_agree (fun b => ?_) h
  simp only [needParam_status]
  cases s.needParam .amp with
  | error r => exact .error r
  | ok amp =>
    cases s.needParam .f with
    | error r => exact .error r
    | ok freq => exact agree_finishMod s x _

theorem exec_modFsk_agree (h : exec .modFsk s = .next t) :
    ∃ u, exec .modFsk { s with status := x } = .next u ∧ SameButStatus t u := by
  refine onBits_agree (fun b => ?_) h
  simp only [needParam_status]
  cases s.needParam .amp with
  | error r => exact .error r
  | ok amp =>
    cases s.needParam .f1 with
    | error r => exact .error r
    | ok freq1 =>
      cases s.needParam .f2 with
      | error r => exact .error r
      | ok freq2 => exact agree_finishMod s x _

theorem exec_modQam8_agree (h : exec .modQam8 s = .next t) :
    ∃ u, exec .modQam8 { s with status := x } = .next u ∧ SameButStatus t u := by
  by_cases hq : s.hasQam8 = true
  · have hpresent : exec .modQam8 { s with status := x } = _ := if_pos hq
    rw [hpresent]
    refine onBits_agree (fun b => ?_) ((if_pos hq).symm.trans h)
    simp only [needParam_status]
    cases s.needParam .fmod with
    | error r => exact .error r
    | ok freq => exact .ok (sameButStatus_of_done rfl rfl rfl)
  · have hq' : s.hasQam8 = false := by simpa using hq
    obtain rfl := Host.Outcome.next.inj ((exec_modQam8_of_absent hq').symm.trans h)
    exact ⟨_, exec_modQam8_of_absent hq', sameButStatus_enterFault s x illegalCommand⟩

theorem exec_agree {i : Instr} (h : exec i s = .next t) :
    ∃ u, exec i { s with status := x } = .next u ∧ SameButStatus t u := by
  cases i with
  | lencNrz | lencMan | lencAmi | lmapMan | splitCc | splitByte | splitBit =>
    exact onBits_agree (fun _ => agree_finish s x _) h
  | ldecNrz | ldecAmi | lmapNrz | lmapAmi => exact onSyms_agree (fun _ => agree_finish s x _) h
  | protectPar | protectHam | wrapByte | wrapBit | wrapBith | join =>
    exact onFrames_agree (fun _ => agree_finish s x _) h
  | protectCrc => exact onFrames_agree (fun _ => .ok (sameButStatus_of_done rfl rfl rfl)) h
  | deframeCc | deframeByte | deframeBit | deframeBith =>
    exact onBits_agree (fun _ => agree_finishDeframe s x _) h
  | ldecMan =>
    refine onBits_agree (fun y => ?_) h
    split
    · exact .error _
    · exact agree_finish s x _
  | wrapCc =>
    refine onFrames_agree (fun f => ?_) h
    split
    · exact .error _
    · exact agree_finish s x _
  | checkPar | checkHam =>
    refine onFrames_agree (fun f => ?_) h
    split
    · exact .error _
    · exact .ok (sameButStatus_of_done rfl rfl rfl)
  | checkCrc =>
    refine onFrames_agree (fun f => ?_) h
    dsimp only
    split
    · exact .error _
    · exact .ok (sameButStatus_of_done rfl rfl rfl)
  | modAsk => exact exec_modAsk_agree h
  | modFsk => exact exec_modFsk_agree h
  | modQam8 => exact exec_modQam8_agree h

end Agreement

/-! ## The statement -/

/-- Settles O11: a fault entry sets `SF`, a command without fault and the other host actions keep it, and
the reset event clears it; no command reads `STATUS`. -/
theorem stickyFaultIsClearedByResetOnly : Obligations.StickyFaultIsClearedByResetOnly := by
  refine ⟨fun i s t h ht => ?_, fun s t h hsf hnr => ?_, fun s t rest hh h => ?_, fun i s t x h => ?_⟩
  · obtain ⟨r, rfl⟩ := exec_enterFault h ht
    exact enterFault_sfBit s r
  · rcases step_next h with ⟨-, rfl⟩ | ⟨a, rest, hh, ha⟩
    · exact hsf
    · cases ha with
      | completes hc => rw [hc.sfBit]; exact hsf
      | fault r => exact enterFault_sfBit _ r
      | reset ha => exact absurd (ha ▸ hh) (hnr rest)
      | quiet hq => rw [State.sfBit, hq.1.status]; exact hsf
  · obtain rfl := Host.Outcome.next.inj ((step_reset hh).symm.trans h)
    simp [resetEvent_eq_reset_with, State.sfBit, State.reset]
  · obtain ⟨u, hu, hsame⟩ := exec_agree (x := x) h
    exact ⟨u, hu, hsame.rest, hsame.faultBit, hsame.errBit, hsame.corBit⟩

end Sys2Proof.Machine
end

section
/-! The decoder and the encoder (30_encoding.md), issuing a command, and the host's own actions
(10_state.md R28, 20_memory.md R35, R40): each is one `hostAct`. -/

namespace Sys2Proof

/-! ## Decoding -/

theorem decode_encode (i : Instr) : decode (encode i) = .ok i := by
  cases i <;> decide

/-- The checks of R45 to R49 refuse exactly the words that R53 lists, over all 256 words. -/
theorem wellFormed_iff_not_reservedWord :
    ∀ w : Byte, (fieldsOf w).wellFormed = true ↔ ¬ ReservedWord w := by decide

theorem decode_isOk_of_not_reservedWord : ∀ w : Byte, ¬ ReservedWord w → (decode w).isOk = true := by
  decide

theorem decode_of_not_reservedWord {w : Byte} (hw : ¬ ReservedWord w) : ∃ i, decode w = .ok i := by
  have hok := decode_isOk_of_not_reservedWord w hw
  cases h : decode w with
  | ok i => exact ⟨i, rfl⟩
  | error r => simp [h, Except.isOk, Except.toBool] at hok

theorem not_reservedWord_of_decode {w : Byte} {i : Instr} (h : decode w = .ok i) : ¬ ReservedWord w :=
  encode_of_decode h ▸ not_reservedWord_encode i

end Sys2Proof

namespace Sys2Proof.Machine

/-! ## The statements on words -/

/-- Settles O1: the ten words are those of their commands. -/
theorem wordsDecodeAsTheMapSays : Obligations.WordsDecodeAsTheMapSays :=
  ⟨decode_encode .lencNrz, decode_encode .ldecAmi, decode_encode .lmapMan, decode_encode .splitByte,
    decode_encode .protectCrc, decode_encode .wrapBith, decode_encode .deframeBit,
    decode_encode .checkHam, decode_encode .join, decode_encode .modFsk⟩

/-- Settles O2. -/
theorem decodeOfEncodeIsTheCommand : Obligations.DecodeOfEncodeIsTheCommand := decode_encode

/-- Settles O3. -/
theorem exactlyTheLegalWordsDecode : Obligations.ExactlyTheLegalWordsDecode := fun w =>
  ⟨⟨fun ⟨_, hi⟩ => not_reservedWord_of_decode hi, decode_of_not_reservedWord⟩,
    wellFormed_iff_not_reservedWord w, fun _ => encode_of_decode⟩

/-- Settles O4: the host's write of `CMD` issues the word. -/
theorem stepRunsTheDecodedCommand : Obligations.StepRunsTheDecodedCommand := fun _ _ _ h =>
  ⟨step_act h, fun _ hi => (step_act h).trans (issue_of_decode_ok hi _)⟩

/-! ## The host's writes -/

section Host
variable {s : State}

theorem writeParam_fmod (s : State) (v : Number) :
    s.writeParam .fmod v = { s with fmod := if s.hasQam8 then some v else s.fmod } := by
  by_cases hq : s.hasQam8 = true
  · exact (if_pos hq).trans (by rw [if_pos hq])
  · exact (if_neg hq).trans (by rw [if_neg hq])

theorem modify_append_cons (u v : BitSeq) (x : Bit) :
    (u ++ x :: v).modify u.length not = u ++ (!x) :: v := by
  induction u with
  | nil => rfl
  | cons y u ih => simp [ih]

theorem flip_bits {u v : BitSeq} {x : Bit} (h : s.buf = .bits (u ++ x :: v)) :
    s.flip u.length = { s with buf := .bits (u ++ (!x) :: v) } := by
  simp only [State.flip, h, modify_append_cons]

/-- A write of a legal `KIND` code: `BUF` is of that kind, and as before if it was already. -/
theorem writeKind_of_kindOf {c : BitVec 2} {k : Kind} (h : kindOf c = some k) (s : State) :
    ∃ b n, s.writeKind c = { s with buf := b, freeCount := n } ∧ b.kind = k ∧
      (s.buf.kind = k → b = s.buf) := by
  simp only [State.writeKind, h]
  split
  · next hk => exact ⟨s.buf, s.freeCount, rfl, hk, fun _ => rfl⟩
  · next hk => exact ⟨_, _, rfl, by cases k <;> rfl, fun h => absurd h hk⟩

/-! ## The host's reads -/

theorem readOnly_status (s : State) : s.readOnly .status = s.status.toNat % 16 := by
  have hmask : (0x0F#8).toNat = 2 ^ 4 - 1 := rfl
  rw [State.readOnly, BitVec.toNat_and, hmask, Nat.and_two_pow_sub_one_eq_mod]

theorem readParam_of_written {p : Param} {x : Number} (hp : s.hasParam p = true)
    (h : s.param p = some x) : s.readParam p = x := by
  simp [State.readParam, hp, h]

theorem readParam_of_absent {p : Param} (hp : s.hasParam p = false) : s.readParam p = .rat 0 := by
  simp [State.readParam, hp]

end Host

/-! ## The statements on the host -/

/-- Settles O15. -/
theorem hostRegisterWrites : Obligations.HostRegisterWrites := fun s rest =>
  ⟨fun _ => step_act, fun _ => step_act, fun _ => step_act, fun _ => step_act,
    fun v h => (step_act h).trans (congrArg _ (writeParam_fmod { s with host := rest } v)),
    fun _ _ => step_act, fun _ _ => step_act, step_act⟩

/-- Settles O16. -/
theorem hostBufferWrites : Obligations.HostBufferWrites := by
  intro s rest
  refine ⟨step_idle, fun _ => step_act, fun _ => step_act, fun j u x v h hbuf hj => ?_,
    fun h => ⟨_, step_reset h, rfl, rfl, rfl, rfl⟩, fun c k h hk => ?_⟩
  · subst hj
    exact (step_act h).trans (congrArg _ (flip_bits (s := { s with host := rest }) hbuf))
  · obtain ⟨b, n, hw, hb⟩ := writeKind_of_kindOf hk { s with host := rest }
    exact ⟨b, n, (step_act h).trans (congrArg _ hw), hb⟩

/-- Settles O17: what is read is `readValue`, port by port. -/
theorem hostReadsChangeNothing : Obligations.HostReadsChangeNothing := by
  intro s rest p h
  refine ⟨_, _, step_act h, ?_⟩
  have hbuf : ∀ {b : Buf} {k : BitVec 2}, p = .reg .kind → kindCode b.kind = k → s.buf = b →
      State.readValue { s with host := rest } p = .nat k.toNat := by
    rintro b k rfl rfl rfl
    rfl
  have hparam : ∀ {q : Param} {x : Number}, p = .reg (.param q) →
      State.hasParam { s with host := rest } q = true → State.param { s with host := rest } q = some x →
      State.readValue { s with host := rest } p = .num x := by
    rintro q x rfl hq hx
    exact congrArg _ (readParam_of_written hq hx)
  exact ⟨by rintro rfl; rfl, by rintro rfl; exact congrArg _ (readOnly_status _), by rintro rfl; rfl,
    by rintro rfl; rfl, by rintro rfl; rfl, by rintro rfl; rfl, by rintro rfl; rfl,
    fun _ hp => hbuf hp rfl, fun _ hp => hbuf hp rfl, fun _ hp => hbuf hp rfl, by rintro j rfl; rfl,
    fun _ hp => hparam hp rfl, fun _ hp => hparam hp rfl, fun _ hp => hparam hp rfl,
    fun _ hp => hparam hp rfl, fun _ hp => hparam hp,
    by rintro rfl hq; exact congrArg _ (readParam_of_absent (p := .fmod) hq),
    by rintro rfl; rfl, by rintro rfl; rfl, by rintro rfl; rfl, by rintro rfl; rfl, by rintro rfl; rfl,
    by rintro rfl; rfl⟩

end Sys2Proof.Machine
end

section
/-! Sequences of commands, and the laws of the line codes through them (40_line_codec.md R62, R70):
decoders and mappers undo the encoders, and Manchester output never holds the flag. -/

namespace Sys2Proof.Machine

/-! ## Sequences of commands -/

section Run
variable {i : Instr} {s t : State}

theorem runCommands_cons (h : exec i s = .next t) (ht : t.faultBit = false) (is : List Instr) :
    runCommands (i :: is) s = runCommands is t := by
  simp [runCommands, h, ht]

/-- The last command of a sequence decides, fault or not. -/
theorem runCommands_singleton (i : Instr) (s : State) : runCommands [i] s = exec i s := by
  obtain ⟨t, ht⟩ := exec_has_next i s
  simp [runCommands, ht]

theorem runCommands_cons_done {b : Buf} (h : exec i s = .next (doneState s b)) (is : List Instr) :
    runCommands (i :: is) s = runCommands is (doneState s b) :=
  runCommands_cons h (doneState_faultBit s b) is

/-- Two commands, of which the first leaves `b` and the second then `c`. -/
theorem runCommands_pair {j : Instr} {b c : Buf} (hi : exec i s = .next (doneState s b))
    (hj : exec j (doneState s b) = .next (doneState (doneState s b) c)) :
    runCommands [i, j] s = .next (doneState s c) := by
  rw [runCommands_cons_done hi, runCommands_singleton, hj, doneState_doneState]

end Run

/-! ## Manchester -/

section Manchester
variable {s : State} {b : BitSeq}

theorem exec_lencMan (h : s.buf = .bits b) :
    exec .lencMan s = .next (doneState s (.bits (lencMan b))) := onBits_finish h _

theorem lencMan_cons (x : Bit) (b : BitSeq) : lencMan (x :: b) = x :: (!x) :: lencMan b := by
  cases x <;> rfl

@[simp] theorem length_lencMan (b : BitSeq) : (lencMan b).length = 2 * b.length := by
  induction b with
  | nil => rfl
  | cons x b ih => simp [lencMan_cons, ih]; omega

theorem getD_lencMan {b : BitSeq} {i : Nat} (hi : i < b.length) :
    (lencMan b).getD (2 * i) false = b.getD i false ∧
      (lencMan b).getD (2 * i + 1) false = !b.getD i false := by
  induction b generalizing i with
  | nil => cases hi
  | cons x b ih =>
    cases i with
    | zero => simp [lencMan_cons]
    | succ i => simpa [lencMan_cons, Nat.mul_add] using ih (Nat.lt_of_succ_lt_succ hi)

/-- No three equal bits in a row: of three neighbours, two are the halves of one bit. -/
theorem lencMan_ne_three (b : BitSeq) (x : Bit) (u v : BitSeq) :
    lencMan b ≠ u ++ x :: x :: x :: v := by
  induction b generalizing u with
  | nil => cases u <;> simp [lencMan]
  | cons c b ih =>
    rw [lencMan_cons]
    match u with
    | [] => cases c <;> cases x <;> simp
    | [_] =>
      cases b with
      | nil => simp [lencMan]
      | cons d b => rw [lencMan_cons]; cases d <;> cases x <;> simp
    | _ :: _ :: u => simpa using fun _ _ => ih u

/-- The flag holds three 1s in a row. -/
theorem lencMan_ne_flag (b u v : BitSeq) : lencMan b ≠ u ++ Config.flag ++ v := by
  simpa [Config.flag] using lencMan_ne_three b true (u ++ [false]) ([true, true, true, false] ++ v)

end Manchester

/-! ## Decoding what was encoded -/

theorem ldecMan_lencMan (b : BitSeq) : ldecMan (lencMan b) = b := by
  induction b with
  | nil => rfl
  | cons x b ih => cases x <;> simp [lencMan_cons, ldecMan, ih]

theorem ldecNrz_lencNrz (b : BitSeq) : ldecNrz (lencNrz b) = b := by
  induction b with
  | nil => rfl
  | cons x b ih => cases x <;> simp_all [ldecNrz, lencNrz, symPos, symNeg]

/-- A polarity is a nonzero level, and so is the other one. -/
theorem ldecAmi_lencAmi {pol : SymCode} (hpol : pol.toInt ≠ 0) (b : BitSeq) :
    ldecAmi (lencAmi pol b) = b := by
  have hneg : ∀ c : SymCode, c.toInt ≠ 0 → (-c).toInt ≠ 0 := by decide
  induction b generalizing pol with
  | nil => rfl
  | cons x b ih =>
    cases x with
    | false => exact congrArg (false :: ·) (ih hpol)
    | true => exact congrArg₂ List.cons (decide_eq_true hpol) (ih (hneg pol hpol))

/-! ## The statements -/

/-- Settles O19. -/
theorem lencManDoublesEachBit : Obligations.LencManDoublesEachBit :=
  ⟨by decide, kindChecked_of_ne_modQam8 (by decide), fun _ b h =>
    ⟨_, exec_lencMan h, length_lencMan b, fun _ => getD_lencMan⟩⟩

/-- Settles O25. -/
theorem lineCodeLaws : Obligations.LineCodeLaws := by
  intro s b h
  have heven : (lencMan b).length % 2 = 0 := by rw [length_lencMan]; omega
  refine ⟨?_, ?_, ?_, ?_, ?_, ?_, fun t y ht hy => ?_⟩
  · rw [runCommands_pair (exec_lencNrz h) (exec_ldecNrz rfl), ldecNrz_lencNrz]
  · rw [runCommands_pair (exec_lencAmi h) (exec_ldecAmi rfl), ldecAmi_lencAmi (by decide)]
  · rw [runCommands_pair (exec_lencMan h) (exec_ldecMan_of_even rfl heven), ldecMan_lencMan]
  · rw [runCommands_pair (exec_lencNrz h) (exec_lmapNrz rfl), ldecNrz_lencNrz]
  · rw [runCommands_pair (exec_lencAmi h) (exec_lmapAmi rfl), ldecAmi_lencAmi (by decide)]
  · rw [runCommands_pair (exec_lencMan h) (exec_lmapMan rfl), exec_lencMan h]
  · obtain rfl := Host.Outcome.next.inj ((exec_lencMan h).symm.trans ht)
    obtain rfl : lencMan b = y := Buf.bits.inj hy
    exact ⟨fun x u v => by simpa using lencMan_ne_three b x u v, lencMan_ne_flag b⟩

end Sys2Proof.Machine
end

section
/-! Numbers as bits, and the flag search: what stands where in a concatenation, when a search for the
closing flag succeeds, and what two flags enclose (00_scope.md section 5.1, 41_framer.md R80, R89, R90). -/

namespace Sys2Proof.Machine

/-! ## Numbers as bits -/

theorem bitsN_succ (n v : Nat) : bitsN (n + 1) v = bitsN n (v / 2) ++ [v.testBit 0] := by
  rw [bitsN, List.range_succ, List.map_append, bitsN]
  congr 1
  · refine List.map_congr_left fun i hi => ?_
    rw [List.mem_range] at hi
    rw [show n + 1 - 1 - i = n - 1 - i + 1 by omega, Nat.testBit_succ]
  · simp

theorem val_bitsN {n v : Nat} (hv : v < 2 ^ n) : val (bitsN n v) = v := by
  induction n generalizing v with
  | zero => simp_all [bitsN, val]
  | succ n ih =>
    rw [bitsN_succ, val_append_one, ih (by omega), Nat.testBit_zero]
    have hbit : (decide (v % 2 = 1)).toNat = v % 2 := by
      rcases Nat.mod_two_eq_zero_or_one v with h | h <;> simp [h]
    omega

theorem bitsN_val (s : BitSeq) : bitsN s.length (val s) = s := by
  induction s using List.reverseRecOn with
  | nil => rfl
  | append_singleton s b ih =>
    have hhalf : (2 * val s + b.toNat) / 2 = val s := by
      have := b.toNat_le
      omega
    have hlow : (2 * val s + b.toNat).testBit 0 = b := by cases b <;> simp
    rw [List.length_append, List.length_singleton, bitsN_succ, val_append_one, hhalf, hlow, ih]

theorem val_lt (s : BitSeq) : val s < 2 ^ s.length := by
  induction s using List.reverseRecOn with
  | nil => simp [val]
  | append_singleton s b ih =>
    have := b.toNat_le
    rw [val_append_one, List.length_append, List.length_singleton, Nat.pow_succ]
    omega

/-! ## Slices of a concatenation -/

section Slices
variable (pre w : BitSeq) (i j : Nat)

theorem slice_append_left : slice (pre ++ w) (pre.length + i) (pre.length + j) = slice w i j := by
  simp [slice, List.take_append, List.drop_append]

theorem field_append_left (n : Nat) : field (pre ++ w) (pre.length + i) n = field w i n := by
  rw [field, Nat.add_assoc, slice_append_left, field]

theorem flagAt_append_left : flagAt (pre ++ w) (pre.length + i) = flagAt w i := by
  rw [flagAt, Nat.add_assoc, slice_append_left, flagAt]

theorem slice_append_right {pre : BitSeq} (h : j ≤ pre.length) : slice (pre ++ w) i j = slice pre i j := by
  rw [slice, List.take_append_of_le_length h, slice]

theorem slice_prefix : slice (pre ++ w) 0 pre.length = pre := by
  simp [slice]

theorem octet_prefix {pre : BitSeq} (h : pre.length = 8) : octet (pre ++ w) 0 = val pre := by
  rw [octet, field, Nat.zero_add, ← h, slice_prefix]

end Slices

/-! ## Where the flag stands -/

theorem flagAt_iff {v : BitSeq} {q : Nat} :
    flagAt v q = true ↔ ∃ c more, v = c ++ (Config.flag ++ more) ∧ c.length = q := by
  rw [flagAt, decide_eq_true_iff]
  constructor
  · intro h
    have hlen := congrArg List.length h
    simp only [length_slice, Config.flagBits_eq, Config.length_flag] at hlen
    refine ⟨v.take q, v.drop (q + 8), ?_, by rw [List.length_take]; omega⟩
    have hcut : v.drop q = slice v q (q + 8) ++ v.drop (q + 8) := by
      rw [slice, ← List.take_append_drop 8 (v.drop q), List.drop_drop, List.drop_take]
      simp
    rw [← h, Config.flagBits_eq, ← hcut, List.take_append_drop]
  · rintro ⟨c, more, rfl, rfl⟩
    exact (slice_append_left c _ 0 8).trans (slice_prefix Config.flag more)

theorem flagAt_append_right {pre : BitSeq} {q : Nat} (h : q + 8 ≤ pre.length) (w : BitSeq) :
    flagAt (pre ++ w) q = flagAt pre q := by
  rw [flagAt, flagAt, decide_eq_decide, Config.flagBits_eq, slice_append_right _ _ _ h]

/-! ## The search -/

section Search
variable {v w : BitSeq} {d : Nat}

/-- With enough fuel the search finds the first flag among the places it tries. -/
theorem findFlag_eq_some_iff (hd : 0 < d) {fuel q r : Nat} (hf : v.length ≤ fuel + q) :
    findFlag v d fuel q = some r ↔
      flagAt v r = true ∧ ∃ n, r = q + n * d ∧ ∀ m, m < n → flagAt v (q + m * d) = false := by
  constructor
  · intro h
    obtain ⟨hflag, -, hfirst⟩ := findFlag_some h
    exact ⟨hflag, hfirst⟩
  · rintro ⟨hflag, n, rfl, hfirst⟩
    cases h : findFlag v d fuel q with
    | none =>
      have hshort := findFlag_none hd hf h n hflag
      obtain ⟨c, more, rfl, hc⟩ := flagAt_iff.mp hflag
      simp only [List.length_append, Config.length_flag, Config.flagBits_eq] at hshort
      omega
    | some r =>
      obtain ⟨hflag', -, n', rfl, hfirst'⟩ := findFlag_some h
      rcases Nat.lt_trichotomy n n' with hlt | rfl | hlt
      · simp [hfirst' n hlt] at hflag
      · rfl
      · simp [hfirst n' hlt] at hflag'

/-- A search does not see what stands before the place it starts from. -/
theorem findFlag_append_left (hd : 0 < d) (pre w : BitSeq) (q : Nat) :
    findFlag (pre ++ w) d (pre ++ w).length (pre.length + q) =
      (findFlag w d w.length q).map (pre.length + ·) := by
  refine Option.ext fun r => ?_
  have hpre : (pre ++ w).length ≤ (pre ++ w).length + (pre.length + q) := Nat.le_add_right _ _
  simp only [findFlag_eq_some_iff hd hpre, Option.map_eq_some_iff,
    findFlag_eq_some_iff hd (Nat.le_add_right w.length q), Nat.add_assoc, flagAt_append_left]
  constructor
  · rintro ⟨hflag, n, rfl, hfirst⟩
    exact ⟨q + n * d, ⟨by rwa [flagAt_append_left] at hflag, n, rfl, hfirst⟩, rfl⟩
  · rintro ⟨r, ⟨hflag, n, rfl, hfirst⟩, rfl⟩
    exact ⟨by rwa [flagAt_append_left], n, rfl, hfirst⟩

/-- The closing flag is the first in steps of `d` after the opening one. -/
theorem findFlag_close_iff (hd : 0 < d) {r : Nat} :
    findFlag (Config.flag ++ w) d (Config.flag ++ w).length 8 = some r ↔
      ∃ c more, w = c ++ (Config.flag ++ more) ∧ r = 8 + c.length ∧ d ∣ c.length ∧
        ∀ m, m * d < c.length → flagAt w (m * d) = false := by
  have hshift : ∀ j, flagAt (Config.flag ++ w) (8 + j) = flagAt w j := flagAt_append_left Config.flag w
  rw [findFlag_eq_some_iff hd (Nat.le_add_right _ _)]
  constructor
  · rintro ⟨hflag, n, rfl, hfirst⟩
    rw [hshift] at hflag
    obtain ⟨c, more, hw, hc⟩ := flagAt_iff.mp hflag
    refine ⟨c, more, hw, by rw [hc], ⟨n, by rw [hc, Nat.mul_comm]⟩, fun m hm => ?_⟩
    rw [← hshift]
    exact hfirst m (Nat.lt_of_mul_lt_mul_right (hc ▸ hm))
  · rintro ⟨c, more, hw, rfl, ⟨n, hn⟩, hfirst⟩
    refine ⟨by rw [hshift]; exact flagAt_iff.mpr ⟨c, more, hw, rfl⟩, n, by rw [hn, Nat.mul_comm], ?_⟩
    intro m hm
    rw [hshift]
    exact hfirst m (by rw [hn, Nat.mul_comm d]; exact Nat.mul_lt_mul_of_pos_right hm hd)

theorem findFlag_close_none (hd : 0 < d) (hw : ∀ m, flagAt w (m * d) = false) :
    findFlag (Config.flag ++ w) d (Config.flag ++ w).length 8 = none := by
  refine Option.eq_none_iff_forall_ne_some.mpr fun r hr => ?_
  obtain ⟨c, more, hc, -, ⟨n, hn⟩, -⟩ := (findFlag_close_iff hd).mp hr
  have hflag : flagAt w (n * d) = true := flagAt_iff.mpr ⟨c, more, hc, by rw [hn, Nat.mul_comm]⟩
  simp [hw n] at hflag

end Search

/-! ## What two flags enclose -/

/-- No flag starts inside `c`, in steps of `d`, when the closing flag follows it (R92). -/
def FlagFree (d : Nat) (c : BitSeq) : Prop :=
  ∀ m, m * d < c.length → flagAt (c ++ Config.flag) (m * d) = false

/-- The bits between the flag a stream starts with and the next one in steps of `d`, and where that
ends: what `DEFRAME.BYTE` (`d = 8`) and `DEFRAME.BIT` (`d = 1`) look for. -/
def enclosed (d : Nat) (w : BitSeq) : Except Raise (BitSeq × Nat) :=
  if !flagAt w 0 then .error ⟨.noOpenFlag, 0, 0⟩
  else
    match findFlag w d w.length 8 with
    | none => .error ⟨.noCloseFlag, 0, 0⟩
    | some q => .ok (slice w 8 q, q + 8)

section Enclosed
variable {w c : BitSeq} {d : Nat}

/-- Only the first seven bits of what follows `c` matter to it. -/
theorem flagAt_content {m : Nat} (hm : m < c.length) (more : BitSeq) :
    flagAt (c ++ (Config.flag ++ more)) m = flagAt (c ++ Config.flag) m := by
  rw [← List.append_assoc, flagAt_append_right]
  rw [List.length_append, Config.length_flag]
  omega

theorem bitFlagFree_iff : BitFlagFree c ↔ FlagFree 1 c := by
  have hsame : ∀ q, q < c.length → flagAt (c ++ Config.flag) q = flagAt (c ++ Config.flag.dropLast) q := by
    intro q hq
    rw [show Config.flag = Config.flag.dropLast ++ [false] from rfl, ← List.append_assoc,
      flagAt_append_right]
    · rfl
    · rw [List.length_append, List.length_dropLast, Config.length_flag]
      omega
  constructor
  · intro h m hm
    rw [Nat.mul_one] at hm ⊢
    rw [hsame m hm]
    exact decide_eq_false (h m hm)
  · intro h q hq
    have hfree := h q (by rwa [Nat.mul_one])
    rw [Nat.mul_one, hsame q hq] at hfree
    exact of_decide_eq_false hfree

theorem byteFlagFree_iff (hc : 8 ∣ c.length) : ByteFlagFree c ↔ FlagFree 8 c := by
  obtain ⟨n, hn⟩ := hc
  have hsame : ∀ m, m < n → flagAt (c ++ Config.flag) (m * 8) = flagAt c (8 * m) := by
    intro m hm
    rw [Nat.mul_comm, flagAt_append_right]
    omega
  constructor
  · intro h m hm
    rw [hsame m (by omega)]
    exact decide_eq_false (h m (by omega))
  · intro h m hm
    have hfree := h m (by omega)
    rw [hsame m (by omega)] at hfree
    exact of_decide_eq_false hfree

theorem enclosed_noOpenFlag (hw : flagAt w 0 = false) : enclosed d w = .error ⟨.noOpenFlag, 0, 0⟩ := by
  simp [enclosed, hw]

theorem enclosed_flag_append (d : Nat) (w : BitSeq) :
    enclosed d (Config.flag ++ w) =
      (findFlag (Config.flag ++ w) d (Config.flag ++ w).length 8).elim (.error ⟨.noCloseFlag, 0, 0⟩)
        fun q => .ok (slice (Config.flag ++ w) 8 q, q + 8) := by
  have hopen : flagAt (Config.flag ++ w) 0 = true := flagAt_iff.mpr ⟨[], w, rfl, rfl⟩
  simp only [enclosed, hopen]
  cases findFlag (Config.flag ++ w) d (Config.flag ++ w).length 8 <;> rfl

theorem enclosed_noCloseFlag (hd : 0 < d) (hw : ∀ m, flagAt w (m * d) = false) :
    enclosed d (Config.flag ++ w) = .error ⟨.noCloseFlag, 0, 0⟩ := by
  rw [enclosed_flag_append, findFlag_close_none hd hw, Option.elim_none]

theorem slice_content (c more : BitSeq) :
    slice (Config.flag ++ (c ++ (Config.flag ++ more))) 8 (8 + c.length) = c :=
  (slice_append_left Config.flag _ 0 c.length).trans (slice_prefix c _)

theorem enclosed_ok_iff (hd : 0 < d) {q : Nat} :
    enclosed d w = .ok (c, q) ↔ (d ∣ c.length ∧ FlagFree d c) ∧ q = c.length + 16 ∧
      ∃ more, w = Config.flag ++ (c ++ (Config.flag ++ more)) := by
  constructor
  · intro h
    cases hopen : flagAt w 0 with
    | false => rw [enclosed_noOpenFlag hopen] at h; cases h
    | true =>
      obtain ⟨u, w, rfl, hu⟩ := flagAt_iff.mp hopen
      obtain rfl := List.length_eq_zero_iff.mp hu
      rw [List.nil_append, enclosed_flag_append] at h
      cases hr : findFlag (Config.flag ++ w) d (Config.flag ++ w).length 8 with
      | none => rw [hr] at h; cases h
      | some r =>
        obtain ⟨c', more, rfl, rfl, hdvd, hfirst⟩ := (findFlag_close_iff hd).mp hr
        rw [hr, Option.elim_some, slice_content] at h
        cases h
        exact ⟨⟨hdvd, fun m hm => by rw [← flagAt_content hm more]; exact hfirst m hm⟩,
          by omega, more, rfl⟩
  · rintro ⟨⟨hdvd, hfree⟩, rfl, more, rfl⟩
    have hclose := (findFlag_close_iff hd).mpr ⟨c, more, rfl, rfl, hdvd, fun m hm => by
      rw [flagAt_content hm more]; exact hfree m hm⟩
    rw [enclosed_flag_append, hclose, Option.elim_some, slice_content, Nat.add_comm 8, Nat.add_assoc]

end Enclosed

end Sys2Proof.Machine
end

section
/-! The deframers (41_framer.md R88 to R91): each reads one frame from the head of what is left of the
stream, and the loop around it succeeds exactly on concatenations of good frames, and otherwise faults
at the first bad one. -/

namespace Sys2Proof.Machine

/-! ## Reading one frame -/

/-- What was read at the head of a stream, as frame `k` read at bit index `p`. -/
def moved {α : Type} (k p : Nat) : Except Raise (α × Nat) → Except Raise (α × Nat)
  | .error r => .error ⟨r.cause, k, p⟩
  | .ok (x, q) => .ok (x, p + q)

/-- `one` reads a frame wherever it stands as `head` reads it from the head of what is left of the
stream, and `head` gives exactly the `Good` frames, from their `wire` forms. -/
structure Reads (one : BitSeq → Nat → Nat → Except Raise (Frame × Nat))
    (head : BitSeq → Except Raise (Frame × Nat)) (Good : Frame → Prop) (wire : Frame → BitSeq) : Prop where
  one_eq : ∀ pre w k, one (pre ++ w) k pre.length = moved k pre.length (head w)
  head_ok_iff : ∀ w x q, head w = .ok (x, q) ↔
    Good x ∧ q = (wire x).length ∧ ∃ more, w = wire x ++ more
  wire_ne_nil : ∀ x, wire x ≠ []

/-! ## The loop -/

section Loop
variable {one : BitSeq → Nat → Nat → Except Raise (Frame × Nat)}
  {head : BitSeq → Except Raise (Frame × Nat)} {Good : Frame → Prop} {wire : Frame → BitSeq}

/-- Good frames at the head of what is left are read one by one; the fuel stays enough. -/
theorem frameLoop_good (hr : Reads one head Good wire) {f : List Frame} (hf : ∀ x ∈ f, Good x)
    {pre w : BitSeq} {fuel k n : Nat} (hn : n = (pre ++ (f.flatMap wire ++ w)).length)
    (hfuel : n ≤ fuel + pre.length) :
    ∃ fuel', n ≤ fuel' + (pre ++ f.flatMap wire).length ∧
      frameLoop (one (pre ++ (f.flatMap wire ++ w))) n fuel k pre.length =
        (frameLoop (one (pre ++ (f.flatMap wire ++ w))) n fuel' (k + f.length)
          (pre ++ f.flatMap wire).length).map (f ++ ·) := by
  induction f generalizing pre fuel k with
  | nil =>
    refine ⟨fuel, by simpa using hfuel, ?_⟩
    simp only [List.flatMap_nil, List.append_nil, List.nil_append, List.length_nil, Nat.add_zero]
    cases frameLoop (one (pre ++ w)) n fuel k pre.length <;> rfl
  | cons x f ih =>
    have hpos := List.length_pos_iff.mpr (hr.wire_ne_nil x)
    obtain ⟨hx, hf⟩ := List.forall_mem_cons.mp hf
    simp only [List.flatMap_cons, List.append_assoc] at hn ⊢
    cases fuel with
    | zero => simp only [List.length_append] at hn hfuel; omega
    | succ fuel =>
      have hone : one (pre ++ (wire x ++ (f.flatMap wire ++ w))) k pre.length =
          .ok (x, (pre ++ wire x).length) := by
        rw [hr.one_eq, (hr.head_ok_iff _ x _).mpr ⟨hx, rfl, _, rfl⟩, moved, List.length_append]
      rw [frameLoop_step (by simp only [List.length_append] at hn; omega) hone]
      obtain ⟨fuel', hfuel', hloop⟩ := ih hf (pre := pre ++ wire x) (fuel := fuel) (k := k + 1)
        (by rw [hn]; simp only [List.append_assoc])
        (by rw [List.length_append]; omega)
      refine ⟨fuel', ?_, ?_⟩
      · simpa only [List.append_assoc] using hfuel'
      · simp only [List.append_assoc] at hloop
        rw [hloop, List.length_cons, Nat.add_assoc, Nat.add_comm 1]
        cases frameLoop (one (pre ++ (wire x ++ (f.flatMap wire ++ w)))) n fuel' (k + (f.length + 1))
          (pre ++ (wire x ++ f.flatMap wire)).length <;> rfl

/-- The loop of a deframer from the start of the stream. -/
def frames (one : BitSeq → Nat → Nat → Except Raise (Frame × Nat)) (v : BitSeq) :
    Except Raise (List Frame) :=
  frameLoop (one v) v.length v.length 0 0

theorem frames_good (hr : Reads one head Good wire) {f : List Frame} (hf : ∀ x ∈ f, Good x) :
    frames one (f.flatMap wire) = .ok f := by
  obtain ⟨fuel, -, hloop⟩ := frameLoop_good hr hf (pre := []) (w := []) (k := 0)
    (fuel := (f.flatMap wire).length) rfl (by simp)
  simp only [List.nil_append, List.append_nil, List.length_nil] at hloop
  rw [frames, hloop, frameLoop_end le_rfl]
  simp [Except.map]

theorem frames_bad (hr : Reads one head Good wire) {f : List Frame} (hf : ∀ x ∈ f, Good x) {w : BitSeq}
    {r : Raise} (hw : w ≠ []) (hbad : head w = .error r) :
    frames one (f.flatMap wire ++ w) = .error ⟨r.cause, f.length, (f.flatMap wire).length⟩ := by
  have hpos := List.length_pos_iff.mpr hw
  obtain ⟨fuel, hfuel, hloop⟩ := frameLoop_good hr hf (pre := []) (w := w) (k := 0)
    (fuel := (f.flatMap wire ++ w).length) rfl (by simp)
  simp only [List.nil_append, List.length_nil, Nat.zero_add] at hloop hfuel
  rw [frames, hloop]
  cases fuel with
  | zero => rw [List.length_append] at hfuel; omega
  | succ fuel =>
    have hone : one (f.flatMap wire ++ w) f.length (f.flatMap wire).length =
        .error ⟨r.cause, f.length, (f.flatMap wire).length⟩ := by rw [hr.one_eq, hbad, moved]
    rw [frameLoop_error (by rw [List.length_append]; omega) hone, Except.map]

/-- Every stream is good frames, up to its end or up to a place where no frame can be read. -/
theorem exists_good_frames (hr : Reads one head Good wire) (v : BitSeq) :
    ∃ (f : List Frame) (w : BitSeq),
    (∀ x ∈ f, Good x) ∧ v = f.flatMap wire ++ w ∧ (w = [] ∨ w ≠ [] ∧ ∃ r, head w = .error r) := by
  by_cases hv : v = []
  · exact ⟨[], [], by simp, hv, .inl rfl⟩
  · cases hh : head v with
    | error r => exact ⟨[], v, by simp, rfl, .inr ⟨hv, r, hh⟩⟩
    | ok xq =>
      obtain ⟨hx, -, more, rfl⟩ := (hr.head_ok_iff v xq.1 xq.2).mp hh
      have hlt : more.length < (wire xq.1 ++ more).length := by
        have := List.length_pos_iff.mpr (hr.wire_ne_nil xq.1)
        rw [List.length_append]
        omega
      obtain ⟨f, w, hf, rfl, hw⟩ := exists_good_frames hr more
      exact ⟨xq.1 :: f, w, List.forall_mem_cons.mpr ⟨hx, hf⟩, by simp, hw⟩
termination_by v.length

theorem frames_ok_iff (hr : Reads one head Good wire) {v : BitSeq} {f : List Frame} :
    frames one v = .ok f ↔ (∀ x ∈ f, Good x) ∧ v = f.flatMap wire := by
  constructor
  · intro h
    obtain ⟨g, w, hg, rfl, rfl | ⟨hw, r, hbad⟩⟩ := exists_good_frames hr v
    · rw [List.append_nil] at h ⊢
      rw [frames_good hr hg] at h
      cases h
      exact ⟨hg, rfl⟩
    · rw [frames_bad hr hg hw hbad] at h
      cases h
  · rintro ⟨hf, rfl⟩
    exact frames_good hr hf

/-- What is before the fault is good frames, as many as the fault reports. -/
theorem frames_error (hr : Reads one head Good wire) {v : BitSeq} {r : Raise}
    (h : frames one v = .error r) : ∃ (f : List Frame) (w : BitSeq),
    (∀ x ∈ f, Good x) ∧ v = f.flatMap wire ++ w ∧ r.finfo = f.length ∧ r.fpos = (f.flatMap wire).length := by
  obtain ⟨g, w, hg, rfl, rfl | ⟨hw, r', hbad⟩⟩ := exists_good_frames hr v
  · rw [List.append_nil, frames_good hr hg] at h
    cases h
  · rw [frames_bad hr hg hw hbad] at h
    cases h
    exact ⟨g, w, hg, rfl, rfl, rfl⟩

end Loop

/-! ## The formats -/

/-- A body after its padding byte, if the padding count can be true of it. -/
def headed (c : BitSeq × Nat) : Except Raise (Frame × Nat) :=
  if c.1.length < 8 then .error ⟨.noPadHeader, 0, 0⟩
  else recordOf 0 0 (c.1.drop 8) (octet c.1 0) c.2

/-- The head of a stream under character count (R88). -/
def ccHead (w : BitSeq) : Except Raise (Frame × Nat) :=
  if w.length < 16 then .error ⟨.hdrLenExceeds, 0, 0⟩
  else if octet w 0 < 2 then .error ⟨.hdrLenTooSmall, 0, 0⟩
  else if w.length < 8 * octet w 0 then .error ⟨.hdrLenExceeds, 0, 0⟩
  else recordOf 0 0 (slice w 16 (8 * octet w 0)) (octet w 8) (8 * octet w 0)

section Formats
variable {w c : BitSeq} {x : Frame} {q : Nat}

theorem moved_recordOf (k p : Nat) (body : BitSeq) (pad q : Nat) :
    moved k p (recordOf 0 0 body pad q) = recordOf k p body pad (p + q) := by
  unfold recordOf
  split <;> rfl

/-- The record of a body and the value of its padding byte. -/
theorem recordOf_val_ok_iff {body h : BitSeq} (hh : h.length = 8) {q' : Nat} :
    recordOf 0 0 body (val h) q = .ok (x, q') ↔
      q' = q ∧ h = bitsN 8 x.pad.toNat ∧ body = x.body ∧ x.pad.toNat ≤ x.body.length := by
  have hval : val h < 2 ^ 8 := hh ▸ val_lt h
  have hbits : bitsN 8 (val h) = h := hh ▸ bitsN_val h
  rw [recordOf]
  split
  · next hlt =>
    simp only [reduceCtorEq, false_iff]
    rintro ⟨-, rfl, rfl, hle⟩
    rw [val_bitsN x.pad.isLt] at hlt
    omega
  · next hle =>
    rw [Except.ok.injEq, Prod.mk.injEq]
    constructor
    · rintro ⟨rfl, rfl⟩
      have hpad : (BitVec.ofNat 8 (val h)).toNat = val h := by
        rw [BitVec.toNat_ofNat, Nat.mod_eq_of_lt hval]
      exact ⟨rfl, by rw [hpad, hbits], rfl, hpad.trans_le (not_lt.mp hle)⟩
    · rintro ⟨rfl, rfl, rfl, -⟩
      rw [val_bitsN x.pad.isLt, BitVec.ofNat_toNat]
      exact ⟨by cases x; simp, rfl⟩

theorem headed_ok_iff {q' : Nat} : headed (c, q) = .ok (x, q') ↔
    q' = q ∧ c = bitsN 8 x.pad.toNat ++ x.body ∧ x.pad.toNat ≤ x.body.length := by
  simp only [headed]
  split
  · next hlt =>
    simp only [reduceCtorEq, false_iff]
    rintro ⟨-, rfl, -⟩
    simp at hlt
  · next hle =>
    have hlen : (c.take 8).length = 8 := by rw [List.length_take]; omega
    have hoct : octet c 0 = val (c.take 8) := by
      conv_lhs => rw [← List.take_append_drop 8 c, octet_prefix _ hlen]
    rw [hoct, recordOf_val_ok_iff hlen]
    constructor
    · rintro ⟨hq, htake, hdrop, hpad⟩
      exact ⟨hq, by rw [← htake, ← hdrop, List.take_append_drop], hpad⟩
    · rintro ⟨hq, rfl, hpad⟩
      exact ⟨hq, List.take_left' (length_bitsN _ _), List.drop_left' (length_bitsN _ _), hpad⟩

/-! ## Character count -/

theorem deframeCcOne_eq (pre w : BitSeq) (k : Nat) :
    deframeCcOne (pre ++ w) k pre.length = moved k pre.length (ccHead w) := by
  have hoct : field (pre ++ w) pre.length 8 = octet w 0 := field_append_left pre w 0 8
  simp only [deframeCcOne, ccHead, Config.ccHeaderBits_eq, Config.lenFieldBits_eq,
    Config.ccHeaderBytes_eq, List.length_append, Nat.add_lt_add_iff_left, hoct, field_append_left,
    slice_append_left]
  split_ifs
  · rfl
  · rfl
  · rfl
  · exact (moved_recordOf ..).symm

theorem length_ccWire (x : Frame) : (ccWire x).length = x.body.length + 16 := by
  simp [ccWire, Config.padFieldBits]
  omega

/-- The head of a stream by its length byte `h`, its padding byte `p` and the rest. -/
theorem ccHead_append {h p : BitSeq} (hh : h.length = 8) (hp : p.length = 8) (rest : BitSeq) :
    ccHead (h ++ (p ++ rest)) =
      if val h < 2 then .error ⟨.hdrLenTooSmall, 0, 0⟩
      else if rest.length + 16 < 8 * val h then .error ⟨.hdrLenExceeds, 0, 0⟩
      else recordOf 0 0 (rest.take (8 * val h - 16)) (val p) (8 * val h) := by
  have hlen : (h ++ (p ++ rest)).length = rest.length + 16 := by
    simp only [List.length_append, hh, hp]
    omega
  have hpad : octet (h ++ (p ++ rest)) 8 = val p := by
    have hshift := field_append_left h (p ++ rest) 0 8
    rw [hh] at hshift
    rw [← octet_prefix rest hp]
    exact hshift
  have hbody : slice (h ++ (p ++ rest)) 16 (8 * val h) = rest.take (8 * val h - 16) := by
    rw [slice, ← List.append_assoc, List.drop_take, List.drop_left' (by simp [hh, hp])]
  rw [ccHead, hlen, octet_prefix _ hh, hpad, hbody, if_neg (by omega)]

theorem ccHead_ok_iff :
    ccHead w = .ok (x, q) ↔ CcFrame x ∧ q = (ccWire x).length ∧ ∃ more, w = ccWire x ++ more := by
  constructor
  · intro hw
    have h16 : 16 ≤ w.length := by
      by_contra hlt
      rw [ccHead, if_pos (by omega)] at hw
      cases hw
    obtain ⟨h, p, rest, rfl, hh, hp⟩ : ∃ h p rest, w = h ++ (p ++ rest) ∧ h.length = 8 ∧ p.length = 8 :=
      ⟨w.take 8, (w.drop 8).take 8, (w.drop 8).drop 8, by simp only [List.take_append_drop],
        by rw [List.length_take]; omega, by rw [List.length_take, List.length_drop]; omega⟩
    rw [ccHead_append hh hp] at hw
    split_ifs at hw with h2 hlong
    have hlen := hh ▸ val_lt h
    obtain ⟨rfl, hpbits, hbody, hpad⟩ := (recordOf_val_ok_iff hp).mp hw
    have hblen := congrArg List.length hbody
    rw [List.length_take] at hblen
    have hn : Config.ccHeaderBytes + x.body.length / 8 = val h := by
      rw [Config.ccHeaderBytes_eq]
      omega
    refine ⟨⟨by omega, by rw [hn]; exact hlen, hpad⟩, by rw [length_ccWire]; omega,
      rest.drop (8 * val h - 16), ?_⟩
    rw [ccWire, hn, ← hbody, ← hpbits, Config.lenFieldBits_eq, ← hh, bitsN_val]
    simp only [List.append_assoc, List.take_append_drop]
  · rintro ⟨⟨hmod, hlen, hpad⟩, rfl, more, rfl⟩
    rw [Config.ccHeaderBytes_eq, Config.lenFieldBits_eq] at hlen
    have hval : val (bitsN 8 (2 + x.body.length / 8)) = 2 + x.body.length / 8 := val_bitsN hlen
    have hbody : 8 * (2 + x.body.length / 8) - 16 = x.body.length := by omega
    rw [length_ccWire, ccWire, List.append_assoc, List.append_assoc, Config.lenFieldBits_eq,
      Config.ccHeaderBytes_eq,
      ccHead_append (length_bitsN _ _) (length_bitsN _ _), hval, hbody, if_neg (by omega), if_neg (by
        rw [List.length_append]; omega), List.take_left, recordOf_val_ok_iff (length_bitsN _ _)]
    exact ⟨by omega, rfl, rfl, hpad⟩

theorem reads_cc : Reads deframeCcOne ccHead CcFrame ccWire where
  one_eq := deframeCcOne_eq
  head_ok_iff _ _ _ := ccHead_ok_iff
  wire_ne_nil x := by simp [ccWire, bitsN]

/-! ## The flag disciplines -/

theorem findFlag_after (pre w : BitSeq) {d : Nat} (hd : 0 < d) :
    findFlag (pre ++ w) d (pre ++ w).length (pre.length + Config.flagBits) =
      (findFlag w d w.length 8).map (pre.length + ·) := findFlag_append_left hd pre w 8

theorem flagAt_length (pre w : BitSeq) : flagAt (pre ++ w) pre.length = flagAt w 0 :=
  flagAt_append_left pre w 0

theorem flagAt_eq_false_of_short (h : w.length < 8) : flagAt w 0 = false := by
  refine decide_eq_false fun hflag => ?_
  have hlen := congrArg List.length hflag
  simp only [length_slice, Config.flagBits_eq, Config.length_flag] at hlen
  omega

theorem deframeContent_eq (pre w : BitSeq) (k : Nat) :
    deframeContent (pre ++ w) k pre.length = moved k pre.length (enclosed 1 w) := by
  have hopen : ((pre ++ w).length < pre.length + Config.flagBits ∨ (!flagAt w 0) = true) ↔
      (!flagAt w 0) = true := by
    refine or_iff_right_of_imp fun hshort => ?_
    rw [flagAt_eq_false_of_short, Bool.not_false]
    simpa using hshort
  simp only [deframeContent, enclosed, flagAt_length, findFlag_after pre w one_pos, hopen]
  split
  · rfl
  · cases findFlag w 1 w.length 8 with
    | none => rfl
    | some r =>
      simp only [Option.map_some, slice_append_left, Config.flagBits_eq, moved, Nat.add_assoc]

theorem deframeBitOne_eq (pre w : BitSeq) (k : Nat) :
    deframeBitOne (pre ++ w) k pre.length = moved k pre.length
      ((enclosed 1 w).map fun c => (⟨c.1, 0#8⟩, c.2)) := by
  rw [deframeBitOne, deframeContent_eq]
  cases enclosed 1 w <;> rfl

theorem deframeBithOne_eq (pre w : BitSeq) (k : Nat) :
    deframeBithOne (pre ++ w) k pre.length = moved k pre.length ((enclosed 1 w).bind headed) := by
  rw [deframeBithOne, deframeContent_eq]
  cases enclosed 1 w with
  | error r => rfl
  | ok c =>
    have hbody : slice c.1 8 c.1.length = c.1.drop 8 := by rw [slice, List.take_length]
    simp only [moved, Except.bind, headed, Config.padFieldBits, hbody]
    split
    · rfl
    · exact (moved_recordOf ..).symm

theorem octet_slice {r : Nat} (hr : 16 ≤ r) (w : BitSeq) : octet (slice w 8 r) 0 = field w 8 8 := by
  have hmin : min 8 (r - 8) = 8 := by omega
  rw [octet, field, field, slice, slice, slice, List.drop_zero, List.drop_take, List.drop_take,
    List.take_take, Nat.zero_add, hmin]

theorem deframeByteOne_eq (pre w : BitSeq) (k : Nat) :
    deframeByteOne (pre ++ w) k pre.length = moved k pre.length ((enclosed 8 w).bind headed) := by
  simp only [deframeByteOne, enclosed, flagAt_length, findFlag_after pre w (d := 8) (by decide)]
  split
  · rfl
  · cases hr : findFlag w 8 w.length 8 with
    | none => rfl
    | some r =>
      have hlen : r + 8 ≤ w.length := (findFlag_some hr).2.1
      have hshort : (slice w 8 r).length < 8 ↔ r < 8 + 8 := by
        rw [length_slice]
        omega
      have hbody : (slice w 8 r).drop 8 = slice w (8 + 8) r := by
        rw [slice, slice, List.drop_drop]
      simp only [Option.map_some, Config.flagBits_eq, Config.padFieldBits, Nat.add_assoc,
        Nat.add_lt_add_iff_left, slice_append_left, field_append_left, Except.bind, headed, hshort, hbody]
      split
      · rfl
      · rw [octet_slice (by omega)]
        exact (moved_recordOf ..).symm

theorem length_bitWire (x : Frame) : (bitWire x).length = x.body.length + 16 := by
  simp [bitWire]
  omega

theorem length_bithWire (x : Frame) : (bithWire x).length = x.body.length + 24 := by
  simp [bithWire, Config.padFieldBits]
  omega

theorem reads_bit : Reads deframeBitOne (fun w => (enclosed 1 w).map fun c => (⟨c.1, 0#8⟩, c.2))
    BitFrame bitWire where
  one_eq := deframeBitOne_eq
  head_ok_iff w x q := by
    rw [length_bitWire]
    constructor
    · intro h
      cases hc : enclosed 1 w with
      | error r => simp [hc, Except.map] at h
      | ok c =>
        obtain ⟨⟨-, hfree⟩, hq, more, rfl⟩ := (enclosed_ok_iff one_pos).mp hc
        simp only [hc, Except.map, Except.ok.injEq, Prod.mk.injEq] at h
        obtain ⟨rfl, rfl⟩ := h
        exact ⟨⟨rfl, bitFlagFree_iff.mpr hfree⟩, hq, more, by simp [bitWire]⟩
    · rintro ⟨⟨hpad, hfree⟩, rfl, more, rfl⟩
      have hc := (enclosed_ok_iff (w := bitWire x ++ more) (c := x.body) one_pos).mpr
        ⟨⟨one_dvd _, bitFlagFree_iff.mp hfree⟩, rfl, more, by simp [bitWire]⟩
      rw [hc, Except.map, ← hpad]
  wire_ne_nil x := by simp [bitWire, Config.flag]

/-- With a padding byte, at any step: `d` is 1 for `DEFRAME.BITH` and 8 for `DEFRAME.BYTE`. -/
theorem bind_headed_ok_iff {d : Nat} (hd : 0 < d) :
    (enclosed d w).bind headed = .ok (x, q) ↔
      (x.pad.toNat ≤ x.body.length ∧ d ∣ (bitsN 8 x.pad.toNat ++ x.body).length ∧
        FlagFree d (bitsN 8 x.pad.toNat ++ x.body)) ∧
      q = (bithWire x).length ∧ ∃ more, w = bithWire x ++ more := by
  have hlen : (bithWire x).length = (bitsN 8 x.pad.toNat ++ x.body).length + 16 := by
    simp [length_bithWire]
    omega
  constructor
  · intro h
    cases hc : enclosed d w with
    | error r => simp [hc, Except.bind] at h
    | ok c =>
      obtain ⟨hdf, hq, more, rfl⟩ := (enclosed_ok_iff hd).mp hc
      rw [hc] at h
      obtain ⟨rfl, hcx, hpad⟩ := headed_ok_iff.mp h
      rw [hcx] at hdf hq ⊢
      exact ⟨⟨hpad, hdf⟩, hq.trans hlen.symm, more, by simp [bithWire]⟩
  · rintro ⟨⟨hpad, hdf⟩, rfl, more, rfl⟩
    have hc := (enclosed_ok_iff (w := bithWire x ++ more) hd).mpr ⟨hdf, hlen, more, by simp [bithWire]⟩
    rw [hc]
    exact headed_ok_iff.mpr ⟨rfl, rfl, hpad⟩

theorem reads_bith : Reads deframeBithOne (fun w => (enclosed 1 w).bind headed) BithFrame bithWire where
  one_eq := deframeBithOne_eq
  head_ok_iff w x q := by
    rw [bind_headed_ok_iff one_pos, ← bitFlagFree_iff]
    simp
  wire_ne_nil x := by simp [bithWire, Config.flag]

theorem reads_byte : Reads deframeByteOne (fun w => (enclosed 8 w).bind headed) ByteFrame byteWire where
  one_eq := deframeByteOne_eq
  head_ok_iff w x q := by
    rw [bind_headed_ok_iff (by decide)]
    refine and_congr_left' ?_
    have hdvd : 8 ∣ (bitsN 8 x.pad.toNat ++ x.body).length ↔ x.body.length % 8 = 0 := by
      rw [List.length_append, length_bitsN]
      omega
    constructor
    · rintro ⟨hpad, h8, hfree⟩
      exact ⟨hdvd.mp h8, hpad, (byteFlagFree_iff h8).mpr hfree⟩
    · rintro ⟨hmod, hpad, hfree⟩
      exact ⟨hpad, hdvd.mpr hmod, (byteFlagFree_iff (hdvd.mpr hmod)).mp hfree⟩
  wire_ne_nil x := by simp [byteWire, Config.flag]

end Formats

end Sys2Proof.Machine
end

section
/-! The statements on the four deframers (41_framer.md R88 to R92, 60_exceptions.md R151, R154): on what
they succeed, where and how they fault, and what is before a fault. -/

namespace Sys2Proof.Machine

/-! ## What the four commands share -/

/-- Command `i` runs the deframer `D`, which gives exactly the `Good` frames from the concatenations of
their `wire` forms, and which, where it faults inside a stream, has read good frames up to there. -/
structure Deframes (i : Instr) (D : BitSeq → Except Raise (List Frame)) (Good : Frame → Prop)
    (wire : Frame → BitSeq) : Prop where
  exec_eq : ∀ s v, s.buf = .bits v → exec i s = s.settle (s.finishDeframe (D v))
  ok_iff : ∀ v f, D v = .ok f ↔ (∀ x ∈ f, Good x) ∧ v = f.flatMap wire
  before_fault : ∀ v r, D v = .error r → r.cause = .notByteMultiple ∨
    ∃ (f : List Frame) (w : BitSeq), (∀ x ∈ f, Good x) ∧ v = f.flatMap wire ++ w ∧
      r.finfo = f.length ∧ r.fpos = (f.flatMap wire).length

section Shared
variable {i : Instr} {D : BitSeq → Except Raise (List Frame)} {Good : Frame → Prop}
  {wire : Frame → BitSeq} {s t : State} {v : BitSeq}

theorem Deframes.exec_ok (hd : Deframes i D Good wire) (hs : s.buf = .bits v) {f : List Frame}
    (h : D v = .ok f) : exec i s = .next (doneState s (.frames f)) := by
  rw [hd.exec_eq s v hs, h, State.finishDeframe, settle_ok, finish_eq_doneState]

theorem Deframes.exec_error (hd : Deframes i D Good wire) (hs : s.buf = .bits v) {r : Raise}
    (h : D v = .error r) : exec i s = .next (faultState s r.cause.code r.finfo r.fpos) := by
  rw [hd.exec_eq s v hs, h, State.finishDeframe, settle_error, enterFault_eq_faultState]

theorem Deframes.exec_iff (hd : Deframes i D Good wire) (hs : s.buf = .bits v) (f : List Frame) :
    exec i s = .next (doneState s (.frames f)) ↔ (∀ x ∈ f, Good x) ∧ v = f.flatMap wire := by
  rw [← hd.ok_iff]
  refine ⟨fun h => ?_, hd.exec_ok hs⟩
  cases hv : D v with
  | ok g =>
    have hbuf := congrArg State.buf (Host.Outcome.next.inj ((hd.exec_ok hs hv).symm.trans h))
    rw [Buf.frames.inj hbuf]
  | error r =>
    have hfault := congrArg State.faultBit (Host.Outcome.next.inj ((hd.exec_error hs hv).symm.trans h))
    rw [← enterFault_eq_faultState, enterFault_faultBit, doneState_faultBit] at hfault
    cases hfault

/-- After a fault inside the stream, the bits before it deframe to the frames before it. -/
theorem Deframes.recoverable (hd : Deframes i D Good wire) (hs : s.buf = .bits v)
    (h : exec i s = .next t) (ht : t.faultBit = true) (hc : t.cause ≠ 0x22#8) :
    ∃ f : List Frame, f.length = t.finfo ∧ t.fpos ≤ v.length ∧
      exec i { s with buf := .bits (v.take t.fpos) } = .next (doneState s (.frames f)) := by
  cases hv : D v with
  | ok f =>
    obtain rfl := Host.Outcome.next.inj ((hd.exec_ok hs hv).symm.trans h)
    simp at ht
  | error r =>
    obtain rfl := Host.Outcome.next.inj ((hd.exec_error hs hv).symm.trans h)
    rcases hd.before_fault v r hv with hr | ⟨f, w, hf, rfl, hfinfo, hfpos⟩
    · exact absurd (congrArg Cause.code hr) hc
    · refine ⟨f, hfinfo.symm, ?_, ?_⟩
      · show r.fpos ≤ _
        rw [hfpos, List.length_append]
        omega
      · refine (hd.exec_iff (s := { s with buf := _ }) rfl f).mpr ⟨hf, ?_⟩
        show List.take r.fpos _ = _
        rw [hfpos, List.take_left]

end Shared

/-! ## Streams of whole bytes -/

section Bytes
variable {one : BitSeq → Nat → Nat → Except Raise (Frame × Nat)}
  {head : BitSeq → Except Raise (Frame × Nat)} {Good : Frame → Prop} {wire : Frame → BitSeq}

theorem length_flatMap_mod_eight (hw : ∀ x, Good x → (wire x).length % 8 = 0) {f : List Frame}
    (hf : ∀ x ∈ f, Good x) : (f.flatMap wire).length % 8 = 0 := by
  induction f with
  | nil => rfl
  | cons x f ih =>
    obtain ⟨hx, hf⟩ := List.forall_mem_cons.mp hf
    have hx8 := hw x hx
    have hf8 := ih hf
    rw [List.flatMap_cons, List.length_append]
    omega

theorem deframeBytes_of_aligned {v : BitSeq} (hv : v.length % 8 = 0) :
    deframeBytes (one v) v = frames one v := if_neg (by simpa using hv)

theorem deframeBytes_of_unaligned {v : BitSeq} (hv : v.length % 8 ≠ 0) :
    deframeBytes (one v) v = .error ⟨.notByteMultiple, 0, 8 * (v.length / 8)⟩ := if_pos hv

theorem deframeBytes_ok_iff (hr : Reads one head Good wire) (hw : ∀ x, Good x → (wire x).length % 8 = 0)
    {v : BitSeq} {f : List Frame} :
    deframeBytes (one v) v = .ok f ↔ (∀ x ∈ f, Good x) ∧ v = f.flatMap wire := by
  by_cases hv : v.length % 8 = 0
  · rw [deframeBytes_of_aligned hv, frames_ok_iff hr]
  · rw [deframeBytes_of_unaligned hv]
    refine ⟨nofun, ?_⟩
    rintro ⟨hf, rfl⟩
    exact absurd (length_flatMap_mod_eight hw hf) hv

theorem deframeBytes_before_fault (hr : Reads one head Good wire) {v : BitSeq} {r : Raise}
    (h : deframeBytes (one v) v = .error r) : r.cause = .notByteMultiple ∨
    ∃ (f : List Frame) (w : BitSeq), (∀ x ∈ f, Good x) ∧ v = f.flatMap wire ++ w ∧
      r.finfo = f.length ∧ r.fpos = (f.flatMap wire).length := by
  by_cases hv : v.length % 8 = 0
  · rw [deframeBytes_of_aligned hv] at h
    exact .inr (frames_error hr h)
  · rw [deframeBytes_of_unaligned hv] at h
    cases h
    exact .inl rfl

theorem deframeBytes_bad (hr : Reads one head Good wire) (hw : ∀ x, Good x → (wire x).length % 8 = 0)
    {f : List Frame} (hf : ∀ x ∈ f, Good x) {w : BitSeq} {r : Raise} (hw8 : w.length % 8 = 0)
    (hne : w ≠ []) (hbad : head w = .error r) :
    deframeBytes (one (f.flatMap wire ++ w)) (f.flatMap wire ++ w) =
      .error ⟨r.cause, f.length, (f.flatMap wire).length⟩ := by
  have hf8 := length_flatMap_mod_eight hw hf
  rw [deframeBytes_of_aligned (by rw [List.length_append]; omega), frames_bad hr hf hne hbad]

end Bytes

/-! ## The four commands -/

theorem length_ccWire_mod {x : Frame} (hx : CcFrame x) : (ccWire x).length % 8 = 0 := by
  rw [length_ccWire]
  have := hx.1
  omega

theorem length_byteWire_mod {x : Frame} (hx : ByteFrame x) : (byteWire x).length % 8 = 0 := by
  have hlen : (byteWire x).length = x.body.length + 24 := length_bithWire x
  have := hx.1
  omega

theorem deframes_cc : Deframes .deframeCc deframeCc CcFrame ccWire where
  exec_eq _ _ h := onBits_of_bits h _
  ok_iff _ _ := deframeBytes_ok_iff reads_cc fun _ => length_ccWire_mod
  before_fault _ _ := deframeBytes_before_fault reads_cc

theorem deframes_byte : Deframes .deframeByte deframeByte ByteFrame byteWire where
  exec_eq _ _ h := onBits_of_bits h _
  ok_iff _ _ := deframeBytes_ok_iff reads_byte fun _ => length_byteWire_mod
  before_fault _ _ := deframeBytes_before_fault reads_byte

theorem deframes_bit : Deframes .deframeBit deframeBit BitFrame bitWire where
  exec_eq _ _ h := onBits_of_bits h _
  ok_iff _ _ := frames_ok_iff reads_bit
  before_fault _ _ h := .inr (frames_error reads_bit h)

theorem deframes_bith : Deframes .deframeBith deframeBith BithFrame bithWire where
  exec_eq _ _ h := onBits_of_bits h _
  ok_iff _ _ := frames_ok_iff reads_bith
  before_fault _ _ h := .inr (frames_error reads_bith h)

/-! ## On what they succeed -/

/-- Settles O29. -/
theorem deframeCcParsesExactlyTheFormat : Obligations.DeframeCcParsesExactlyTheFormat :=
  ⟨by decide, kindChecked_of_ne_modQam8 (by decide), fun _ _ => deframes_cc.exec_iff⟩

/-- Settles O30. -/
theorem deframeByteParsesExactlyTheFormat : Obligations.DeframeByteParsesExactlyTheFormat :=
  ⟨by decide, kindChecked_of_ne_modQam8 (by decide), fun _ _ => deframes_byte.exec_iff⟩

/-- Settles O31. -/
theorem deframeBitParsesExactlyTheFormat : Obligations.DeframeBitParsesExactlyTheFormat :=
  ⟨by decide, kindChecked_of_ne_modQam8 (by decide), fun _ _ => deframes_bit.exec_iff⟩

/-- Settles O32. -/
theorem deframeBithParsesExactlyTheFormat : Obligations.DeframeBithParsesExactlyTheFormat :=
  ⟨by decide, kindChecked_of_ne_modQam8 (by decide), fun _ _ => deframes_bith.exec_iff⟩

/-- Settles O37. -/
theorem deframeFaultsLeaveARecoverablePrefix : Obligations.DeframeFaultsLeaveARecoverablePrefix := by
  intro i s t v hop hs h ht hc
  cases i with
  | deframeCc => exact deframes_cc.recoverable hs h ht hc
  | deframeByte => exact deframes_byte.recoverable hs h ht hc
  | deframeBit => exact deframes_bit.recoverable hs h ht hc
  | deframeBith => exact deframes_bith.recoverable hs h ht hc
  | _ => cases hop

/-! ## Where and how they fault -/

section Bad
variable {w c : BitSeq} {q : Nat}

theorem headed_noPadHeader (hc : c.length < 8) : headed (c, q) = .error ⟨.noPadHeader, 0, 0⟩ := if_pos hc

theorem headed_padExceedsBody (hc : 8 ≤ c.length) (hpad : c.length - 8 < octet c 0) :
    headed (c, q) = .error ⟨.padExceedsBody, 0, 0⟩ :=
  (if_neg (not_lt.mpr hc)).trans (if_pos (by rwa [List.length_drop]))

theorem flagAt_zero_false_of_slice (h : slice w 0 8 ≠ Config.flag) : flagAt w 0 = false := decide_eq_false h

theorem flagAt_zero_false_of_octet (h : octet w 0 ≠ 0x7E) : flagAt w 0 = false :=
  decide_eq_false fun hflag => h (congrArg val hflag)

/-- Enclosed by two flags, with a padding byte that is missing or cannot be true. -/
theorem bind_headed_bad {d : Nat} (hd : 0 < d) (hc : d ∣ c.length) (hfree : FlagFree d c)
    (more : BitSeq) {r : Raise} (hbad : headed (c, c.length + 16) = .error r) :
    (enclosed d (Config.flag ++ c ++ Config.flag ++ more)).bind headed = .error r := by
  rw [(enclosed_ok_iff hd).mpr ⟨⟨hc, hfree⟩, rfl, more, by simp only [List.append_assoc]⟩]
  exact hbad

theorem byteFlagFree_no_flag (hc : ByteFlagFree c) (m : Nat) : flagAt c (m * 8) = false := by
  refine Bool.eq_false_iff.mpr fun hflag => ?_
  obtain ⟨u, more, hcu, hu⟩ := flagAt_iff.mp hflag
  have hlen := congrArg List.length hcu
  simp only [List.length_append, Config.length_flag] at hlen
  refine hc m (by omega) ?_
  rw [Nat.mul_comm]
  exact of_decide_eq_true hflag

end Bad

/-- Settles O33. -/
theorem deframeCcFaultsAtTheFirstBadFrame : Obligations.DeframeCcFaultsAtTheFirstBadFrame := by
  refine ⟨fun s v hs hv => deframes_cc.exec_error hs (deframeBytes_of_unaligned hv), ?_⟩
  intro s f rest hf h8 hs
  have hfault : ∀ {c : Cause}, 8 ≤ rest.length → ccHead rest = .error ⟨c, 0, 0⟩ →
      exec .deframeCc s = .next (faultState s c.code f.length (f.flatMap ccWire).length) := by
    intro c hne hbad
    exact deframes_cc.exec_error hs (deframeBytes_bad reads_cc (fun _ => length_ccWire_mod) hf h8
      (by rintro rfl; simp at hne) hbad)
  refine ⟨fun hlen => ?_, fun h16 hlen => ?_, fun h16 hlen => ?_, fun hlo hhi h16 hpad => ?_⟩
  · exact hfault hlen.ge (if_pos (by omega))
  · exact hfault (by omega) ((if_neg (by omega)).trans (if_pos hlen))
  · exact hfault (by omega) ((if_neg (by omega)).trans ((if_neg (by omega)).trans (if_pos hlen)))
  · refine hfault (by omega) ((if_neg (by omega)).trans ((if_neg (by omega)).trans ((if_neg (by omega)).trans
      (if_pos ?_))))
    rw [length_slice]
    omega

/-- Settles O34. -/
theorem deframeByteFaultsAtTheFirstBadFrame : Obligations.DeframeByteFaultsAtTheFirstBadFrame := by
  refine ⟨fun s v hs hv => deframes_byte.exec_error hs (deframeBytes_of_unaligned hv), ?_⟩
  intro s f rest hf h8 hs
  have hfault : ∀ {c : Cause}, rest ≠ [] → (enclosed 8 rest).bind headed = .error ⟨c, 0, 0⟩ →
      exec .deframeByte s = .next (faultState s c.code f.length (f.flatMap byteWire).length) :=
    fun hne hbad => deframes_byte.exec_error hs
      (deframeBytes_bad reads_byte (fun _ => length_byteWire_mod) hf h8 hne hbad)
  refine ⟨fun hne hoct => ?_, fun c hc hfree => ?_, fun more hmore => ?_,
    fun c more hc hne hc8 hfree hpad => ?_⟩
  · exact hfault hne (by rw [enclosed_noOpenFlag (flagAt_zero_false_of_octet hoct)]; rfl)
  · subst hc
    exact hfault (by simp [Config.flag])
      (by rw [enclosed_noCloseFlag (by decide) (byteFlagFree_no_flag hfree)]; rfl)
  · subst hmore
    exact hfault (by simp [Config.flag]) (bind_headed_bad (c := []) (by decide) (dvd_zero 8) nofun more
      (headed_noPadHeader (by decide)))
  · subst hc
    have hdvd : 8 ∣ c.length := Nat.dvd_of_mod_eq_zero hc8
    have hpos := List.length_pos_iff.mpr hne
    exact hfault (by simp [Config.flag]) (bind_headed_bad (by decide) hdvd ((byteFlagFree_iff hdvd).mp hfree)
      more (headed_padExceedsBody (by omega) hpad))

/-- Settles O35. -/
theorem deframeBitFaultsAtTheFirstBadFrame : Obligations.DeframeBitFaultsAtTheFirstBadFrame := by
  intro s f rest hf hs
  refine ⟨fun hne hslice => ?_, fun c hc hfree => ?_⟩
  · exact deframes_bit.exec_error hs (frames_bad reads_bit hf hne
      (by rw [enclosed_noOpenFlag (flagAt_zero_false_of_slice hslice)]; rfl))
  · subst hc
    exact deframes_bit.exec_error hs (frames_bad reads_bit hf (by simp [Config.flag])
      (by rw [enclosed_noCloseFlag one_pos fun m => decide_eq_false (hfree _)]; rfl))

/-- Settles O36. -/
theorem deframeBithFaultsAtTheFirstBadFrame : Obligations.DeframeBithFaultsAtTheFirstBadFrame := by
  intro s f rest hf hs
  have hfault : ∀ {c : Cause}, rest ≠ [] → (enclosed 1 rest).bind headed = .error ⟨c, 0, 0⟩ →
      exec .deframeBith s = .next (faultState s c.code f.length (f.flatMap bithWire).length) :=
    fun hne hbad => deframes_bith.exec_error hs (frames_bad reads_bith hf hne hbad)
  refine ⟨fun hne hslice => ?_, fun c hc hfree => ?_, fun c more hc hfree hlen => ?_,
    fun c more hc hfree hlen hpad => ?_⟩
  · exact hfault hne (by rw [enclosed_noOpenFlag (flagAt_zero_false_of_slice hslice)]; rfl)
  · subst hc
    exact hfault (by simp [Config.flag])
      (by rw [enclosed_noCloseFlag one_pos fun m => decide_eq_false (hfree _)]; rfl)
  · subst hc
    exact hfault (by simp [Config.flag]) (bind_headed_bad one_pos (one_dvd _) (bitFlagFree_iff.mp hfree) more
      (headed_noPadHeader hlen))
  · subst hc
    exact hfault (by simp [Config.flag]) (bind_headed_bad one_pos (one_dvd _) (bitFlagFree_iff.mp hfree) more
      (headed_padExceedsBody hlen hpad))

end Sys2Proof.Machine
end

section
/-! Framing and deframing together (41_framer.md R92, R94, 70_reset_and_hazards.md R176): when flag framing
gives a frame's content back, when a message comes back, and how long a payload a character-count frame
carries. -/

namespace Sys2Proof.Machine

/-! ## Deframing what was framed -/

section Inverse
variable {i j k : Instr} {D : BitSeq → Except Raise (List Frame)} {Good : Frame → Prop}
  {wire : Frame → BitSeq} {s : State} {v : BitSeq}

theorem wrap_deframe_iff (hd : Deframes i D Good wire) (hj : exec j s = .next (doneState s (.bits v)))
    (f : List Frame) : runCommands [j, i] s = .next (doneState s (.frames f)) ↔
      (∀ x ∈ f, Good x) ∧ v = f.flatMap wire := by
  rw [runCommands_cons_done hj, runCommands_singleton, ← hd.exec_iff (s := doneState s (.bits v)) rfl,
    doneState_doneState]

/-- Frames the format can carry come back through `WRAP` and `DEFRAME`. -/
theorem split_wrap_deframe (hd : Deframes i D Good wire) {f : List Frame}
    (hk : exec k s = .next (doneState s (.frames f)))
    (hj : exec j (doneState s (.frames f)) =
      .next (doneState (doneState s (.frames f)) (.bits (f.flatMap wire)))) (hf : ∀ x ∈ f, Good x) :
    runCommands [k, j, i] s = .next (doneState s (.frames f)) := by
  rw [runCommands_cons_done hk, (wrap_deframe_iff hd hj f).mpr ⟨hf, rfl⟩, doneState_doneState]

end Inverse

/-! ## The condition of R92 on bits -/

/-- A flag that starts in `c` and ends in the seven bits after it can only start with the last seven bits
of `c`: anywhere else a 1 of the flag falls on the 0 that follows `c`. -/
theorem straddling_flag {a more : BitSeq} (ha : a ≠ [])
    (h : Config.flag ++ more = a ++ Config.flag.dropLast) (hshort : a.length < 8) :
    a = [false, true, true, true, true, true, true] := by
  have hpos := List.length_pos_iff.mpr ha
  have hzero : Config.flag[a.length]? = some false := by
    rw [← List.getElem?_append_left (l₂ := more) (by simpa using hshort), h,
      List.getElem?_append_right le_rfl, Nat.sub_self]
    rfl
  have hseven : a.length = 7 := by
    generalize a.length = n at hpos hshort hzero
    interval_cases n <;> simp_all [Config.flag]
  have htake := congrArg (List.take 7) h
  rwa [← hseven, List.take_left, hseven, eq_comm] at htake

theorem bitFlagFree_iff_no_flag (c : BitSeq) : BitFlagFree c ↔
    (∀ u v : BitSeq, c ≠ u ++ Config.flag ++ v) ∧
      ∀ u : BitSeq, c ≠ u ++ [false, true, true, true, true, true, true] := by
  have hstands : ∀ u more, c ++ Config.flag.dropLast = u ++ (Config.flag ++ more) → u.length < c.length →
      ¬ BitFlagFree c := fun u more h hlt hfree =>
    hfree u.length hlt (of_decide_eq_true (flagAt_iff.mpr ⟨u, more, h, rfl⟩))
  constructor
  · refine fun hfree => ⟨fun u v hc => ?_, fun u hc => ?_⟩
    · exact hstands u (v ++ Config.flag.dropLast) (by simp [hc]) (by simp [hc]) hfree
    · exact hstands u [true, true, true, true, true, true] (by simp [hc, Config.flag]) (by simp [hc]) hfree
  · rintro ⟨hin, hend⟩ q hq hflag
    obtain ⟨u, more, hcu, rfl⟩ := flagAt_iff.mp (decide_eq_true hflag)
    obtain ⟨a, rfl, -⟩ | ⟨a, rfl, ha⟩ := List.append_eq_append_iff.mp hcu
    · simp at hq
    · by_cases hshort : a.length < 8
      · rw [straddling_flag (by rintro rfl; simp at hq) ha hshort] at hend
        exact hend u rfl
      · have htake := congrArg (List.take 8) ha
        rw [List.take_left' Config.length_flag, List.take_append_of_le_length (by omega)] at htake
        refine hin u (a.drop 8) ?_
        rw [htake, List.append_assoc, List.take_append_drop]

/-! ## The statements on content that comes back -/

theorem toNat_ofNat_ceil8 (n : Nat) : (BitVec.ofNat 8 (ceil8 n)).toNat = ceil8 n := by
  have := ceil8_lt n
  rw [BitVec.toNat_ofNat, Nat.mod_eq_of_lt (by omega)]

/-- `WRAP.BYTE` pads a body to whole bytes and declares how much. -/
def paddedFrame (x : Frame) : Frame := ⟨padded x.body, BitVec.ofNat 8 (ceil8 x.body.length)⟩

theorem wrapByteFrame_eq_byteWire (x : Frame) : wrapByteFrame x = byteWire (paddedFrame x) := by
  rw [wrapByteFrame, byteWire, paddedFrame, toNat_ofNat_ceil8]

theorem byteFrame_paddedFrame_iff (x : Frame) : ByteFrame (paddedFrame x) ↔
    ByteFlagFree (bitsN 8 (ceil8 x.body.length) ++ padded x.body) := by
  have hmod : (padded x.body).length % 8 = 0 := by rw [length_padded, add_ceil8_mod]
  have hpad : ceil8 x.body.length ≤ (padded x.body).length := by rw [length_padded]; omega
  simp only [ByteFrame, paddedFrame, toNat_ofNat_ceil8]
  exact ⟨fun h => h.2.2, fun h => ⟨hmod, hpad, h⟩⟩

/-- Settles O38. -/
theorem stuffingIsTransparentExactlyWithoutFalseFlags :
    Obligations.StuffingIsTransparentExactlyWithoutFalseFlags := by
  refine ⟨bitFlagFree_iff_no_flag, fun s x hs => ⟨?_, ?_, ?_⟩⟩
  · rw [← byteFrame_paddedFrame_iff]
    refine (wrap_deframe_iff deframes_byte (exec_wrapByte hs) [paddedFrame x]).trans ?_
    simp [wrapByteFrame_eq_byteWire]
  · refine (wrap_deframe_iff deframes_bit (exec_wrapBit hs) [⟨x.body, 0#8⟩]).trans ?_
    simp [wrapBitFrame, bitWire]
  · refine (wrap_deframe_iff deframes_bith (exec_wrapBith hs) [⟨x.body, 0#8⟩]).trans ?_
    have hgood : BithFrame ⟨x.body, 0#8⟩ ↔ BitFlagFree (bitsN 8 0 ++ x.body) :=
      and_iff_right (Nat.zero_le _)
    simp [wrapBithFrame, bithWire, hgood]

/-! ## A message comes back -/

/-- Cutting a whole number of bytes into pieces of whole bytes leaves whole bytes. -/
theorem length_mod_of_mem_pieces {w : Nat} (hw : 0 < w) (hw8 : w % 8 = 0) {b : BitSeq} :
    b.length % 8 = 0 → ∀ c ∈ pieces w b, c.length % 8 = 0 := by
  induction b using drop_induction hw with
  | nil => simp
  | cut b hb ih =>
    intro hb8
    rw [pieces_of_ne_nil hw hb, List.forall_mem_cons, List.length_take]
    exact ⟨by omega, ih (by rw [List.length_drop]; omega)⟩

theorem length_le_of_mem_pieces {w : Nat} (hw : 0 < w) {b : BitSeq} {c : BitSeq} (hc : c ∈ pieces w b) :
    c.length ≤ b.length := by
  have hflat : (pieces w b).flatten = b := flatten_piecesFrom hw _ b le_rfl
  rw [← hflat]
  exact (List.sublist_flatten_of_mem hc).length_le

theorem padded_of_mod {c : BitSeq} (hc : c.length % 8 = 0) : padded c = c := by
  simp [padded, ceil8_of_mod hc, rep]

theorem ccFrameBits_of_mod {c : BitSeq} (hc : c.length % 8 = 0) : ccFrameBits ⟨c, 0#8⟩ = ccWire ⟨c, 0#8⟩ := by
  simp [ccFrameBits, ccWire, ceil8_of_mod hc, rep]

theorem wrapByteFrame_of_mod {c : BitSeq} (hc : c.length % 8 = 0) :
    wrapByteFrame ⟨c, 0#8⟩ = byteWire ⟨c, 0#8⟩ := by
  simp [wrapByteFrame, byteWire, ceil8_of_mod hc, padded_of_mod hc]

theorem forall_mem_splitFrames {P : Frame → Prop} {b : BitSeq} :
    (∀ x ∈ splitFrames b 254, P x) ↔ ∀ c ∈ chunk b 254, P ⟨c, 0#8⟩ := List.forall_mem_map

theorem flatMap_splitFrames_congr {g g' : Frame → BitSeq} {b : BitSeq}
    (h : ∀ c ∈ chunk b 254, g ⟨c, 0#8⟩ = g' ⟨c, 0#8⟩) :
    (splitFrames b 254).flatMap g = (splitFrames b 254).flatMap g' := by
  rw [List.flatMap_def, List.flatMap_def,
    List.map_congr_left (forall_mem_splitFrames (P := fun x => g x = g' x) |>.mpr h)]

/-- Settles O40: the frames of `SPLIT` come back as they are. -/
theorem framingIsIdempotent : Obligations.FramingIsIdempotent := by
  intro s b hs
  have hflat := flatten_map_body_splitFrames (M := 254) (by decide) b
  have hpad : ∀ x ∈ splitFrames b 254, x.pad = 0#8 := fun x hx =>
    (pad_and_length_of_mem_splitFrames (by decide) b x hx).1
  have hmod : b.length % 8 = 0 → ∀ c ∈ chunk b 254, c.length % 8 = 0 :=
    length_mod_of_mem_pieces (by decide) (by decide)
  refine ⟨fun h8 hlen => ⟨_, ?_, hflat, hpad⟩, fun h8 hfree => ⟨_, ?_, hflat, hpad⟩,
    fun hfree => ⟨_, ?_, hflat, hpad⟩, fun hfree => ⟨_, ?_, hflat, hpad⟩⟩
  · have hle : ∀ c ∈ chunk b 254, c.length ≤ b.length := fun c => length_le_of_mem_pieces (by decide)
    refine split_wrap_deframe deframes_cc (exec_splitCc hs) ?_ (forall_mem_splitFrames.mpr fun c hc => ?_)
    · rw [exec_wrapCc_of_fits rfl (forall_mem_splitFrames.mpr fun c hc => ?_),
        flatMap_splitFrames_congr fun c hc => ccFrameBits_of_mod (hmod h8 c hc)]
      have := hle c hc
      show 2 + (c.length + ceil8 c.length) / 8 ≤ 255
      rw [ceil8_of_mod (hmod h8 c hc)]
      omega
    · have := hle c hc
      have := hmod h8 c hc
      exact ⟨this, by simp only [Config.ccHeaderBytes_eq, Config.lenFieldBits_eq]; omega, Nat.zero_le _⟩
  · refine split_wrap_deframe deframes_byte (exec_splitByte hs) ?_
      (forall_mem_splitFrames.mpr fun c hc => ⟨hmod h8 c hc, Nat.zero_le _, hfree c hc⟩)
    rw [exec_wrapByte rfl, flatMap_splitFrames_congr fun c hc => wrapByteFrame_of_mod (hmod h8 c hc)]
  · exact split_wrap_deframe deframes_bit (exec_splitBit hs) (exec_wrapBit rfl)
      (forall_mem_splitFrames.mpr fun c hc => ⟨rfl, hfree c hc⟩)
  · refine split_wrap_deframe deframes_bith (exec_splitBit hs) ?_
      (forall_mem_splitFrames.mpr fun c hc => ⟨Nat.zero_le _, hfree c hc⟩)
    rw [exec_wrapBith rfl, flatMap_splitFrames_congr (g := wrapBithFrame) (g' := bithWire) fun c hc => rfl]

/-! ## How long a payload a character-count frame carries -/

section Limits
variable {s t : State}

@[simp] theorem faultState_faultBit (s : State) (c : BitVec 8) (k p : Nat) :
    (faultState s c k p).faultBit = true := by
  simp [faultState, State.faultBit]

theorem wrapCc_fits_iff {c : BitSeq} {p : BitVec 8} (hs : s.buf = .frames [⟨c, p⟩]) :
    (∃ t, exec .wrapCc s = .next t ∧ t.faultBit = false) ↔ c.length ≤ 2024 := by
  have hfit : 2 + (c.length + ceil8 c.length) / 8 ≤ 255 ↔ c.length ≤ 2024 := by
    have := ceil8_lt c.length
    have := add_ceil8_mod c.length
    omega
  rw [← hfit]
  constructor
  · rintro ⟨t, ht, hfault⟩
    by_contra hlong
    have hover := exec_wrapCc_of_overflow (f := []) (g := []) hs nofun (not_le.mp hlong)
    obtain rfl := Host.Outcome.next.inj (hover.symm.trans ht)
    rw [faultState_faultBit] at hfault
    cases hfault
  · exact fun h => ⟨_, exec_wrapCc_of_fits hs (by simpa using h), doneState_faultBit _ _⟩

/-- The same after a command that leaves one coded frame. -/
theorem protect_wrapCc_fits_iff {i : Instr} {c : BitSeq} (hi : exec i s = .next t)
    (hfault : t.faultBit = false) (hbuf : t.buf = .frames [⟨c, 0#8⟩]) :
    (∃ u, runCommands [i, .wrapCc] s = .next u ∧ u.faultBit = false) ↔ c.length ≤ 2024 := by
  rw [runCommands_cons hi hfault, runCommands_singleton, wrapCc_fits_iff hbuf]

/-- `r` is at most 11 up to the limit and at least 11 beyond it. -/
theorem length_protectHam_le_iff (m : BitSeq) : (protectHam m).length ≤ 2024 ↔ m.length ≤ 2013 := by
  obtain ⟨hmeets, hleast⟩ := hamR_spec m.length
  rw [length_protectHam]
  constructor
  · intro hle
    by_contra hlong
    have hpow : 2 ^ hamR m.length ≤ 2 ^ 10 := Nat.pow_le_pow_right two_pos (by omega)
    omega
  · intro hle
    by_contra hlong
    have := hleast 11 (by omega)
    omega

theorem length_protectCrc (m : BitSeq) : (protectCrc m).length = max m.length 64 + 32 := by
  simp [protectCrc, filled, fillLen_eq, Config.crcBits]
  omega

end Limits

/-- Settles O41: the frame fits when its coded payload has at most 2024 bits. -/
theorem characterCountLimits : Obligations.CharacterCountLimits := by
  intro s m p hs
  refine ⟨wrapCc_fits_iff hs, ?_, ?_, ?_⟩
  · rw [protect_wrapCc_fits_iff (exec_protectPar hs) (doneState_faultBit _ _) rfl]
    simp [protectPar]
    omega
  · rw [protect_wrapCc_fits_iff (exec_protectHam hs) (doneState_faultBit _ _) rfl,
      length_protectHam_le_iff]
  · have hfault := doneState_faultBit s (.frames (protectFrames protectCrc [⟨m, p⟩]))
    rw [protect_wrapCc_fits_iff (exec_protectCrc hs) hfault rfl, length_protectCrc]
    show max m.length 64 + 32 ≤ 2024 ↔ _
    omega

end Sys2Proof.Machine
end

section
/-! The CRC register (42_parity_crc.md section 3, R104, R105, R110): one step bit by bit, from which it
follows that a step is linear and, the generator's constant term being 1, injective; and the register is
the remainder of polynomial division. -/

namespace Sys2Proof.Machine

/-! ## One step -/

section Step
variable {r r' : BitVec 32} {b : Bit}

/-- The new bit enters at the bottom, the others move up, and the generator is added when a 1 leaves. -/
theorem crcStep_eq (r : BitVec 32) (b : Bit) : crcStep r b =
    ((r <<< 1) ||| (if b then 1#32 else 0#32)) ^^^ (if r.msb then Config.crcPoly else 0#32) := by
  unfold crcStep
  cases r.msb <;> simp

theorem crcPoly_bit_zero : Config.crcPoly.getLsbD 0 = true := by decide

theorem getLsbD_crcStep_zero (r : BitVec 32) (b : Bit) : (crcStep r b).getLsbD 0 = (b ^^ r.msb) := by
  have hpoly : (if r.msb then Config.crcPoly else 0#32).getLsbD 0 = r.msb := by
    cases r.msb
    · rfl
    · exact crcPoly_bit_zero
  rw [crcStep_eq, BitVec.getLsbD_xor, hpoly]
  cases b <;> simp

theorem getLsbD_crcStep_succ (r : BitVec 32) (b : Bit) {i : Nat} (hi : i < 31) :
    (crcStep r b).getLsbD (i + 1) = (r.getLsbD i ^^ (r.msb && Config.crcPoly.getLsbD (i + 1))) := by
  have hpoly : (if r.msb then Config.crcPoly else 0#32).getLsbD (i + 1) =
      (r.msb && Config.crcPoly.getLsbD (i + 1)) := by
    cases r.msb <;> simp
  have hbit : (if b then 1#32 else 0#32).getLsbD (i + 1) = false := by
    cases b <;> simp [BitVec.getLsbD_one]
  rw [crcStep_eq, BitVec.getLsbD_xor, hpoly, BitVec.getLsbD_or, hbit, BitVec.getLsbD_shiftLeft]
  have hi' : i + 1 < 32 := by omega
  simp [hi', Config.crcBits]

theorem crcStep_zero : crcStep 0#32 false = 0#32 := by decide

/-- Two registers are equal when their bits are, the lowest one apart. -/
theorem eq_of_bits {x y : BitVec 32} (h0 : x.getLsbD 0 = y.getLsbD 0)
    (hs : ∀ i, i < 31 → x.getLsbD (i + 1) = y.getLsbD (i + 1)) : x = y := by
  refine BitVec.eq_of_getLsbD_eq fun i hi => ?_
  cases i with
  | zero => exact h0
  | succ i => exact hs i (by omega)

theorem crcStep_xor (r r' : BitVec 32) (b : Bit) :
    crcStep (r ^^^ r') b = crcStep r false ^^^ crcStep r' b := by
  refine eq_of_bits ?_ fun i hi => ?_
  · simp only [BitVec.getLsbD_xor, getLsbD_crcStep_zero, BitVec.msb_xor]
    cases b <;> simp
  · simp only [BitVec.getLsbD_xor, getLsbD_crcStep_succ _ _ hi, BitVec.msb_xor]
    cases r.msb <;> cases r'.msb <;> cases r.getLsbD i <;> cases r'.getLsbD i <;> simp

/-- The lowest bit of the result tells whether the generator was added. -/
theorem crcStep_injective (h : crcStep r b = crcStep r' b) : r = r' := by
  have hmsb : r.msb = r'.msb := by
    have h0 := congrArg (·.getLsbD 0) h
    simpa only [getLsbD_crcStep_zero, Bool.xor_right_inj] using h0
  refine BitVec.eq_of_getLsbD_eq fun i hi => ?_
  by_cases hlast : i = 31
  · subst hlast
    simpa [BitVec.msb_eq_getLsbD_last] using hmsb
  · have hi' := congrArg (·.getLsbD (i + 1)) h
    simpa only [getLsbD_crcStep_succ _ _ (show i < 31 by omega), hmsb, Bool.xor_left_inj] using hi'

/-- With no 1 to leave, a step doubles the number and adds the bit. -/
theorem toNat_crcStep_of_lt (h : r.toNat < 2 ^ 31) : (crcStep r b).toNat = 2 * r.toNat + b.toNat := by
  have hmsb : r.msb = false := by rw [BitVec.msb_eq_decide]; simpa using h
  have hbit : (if b then 1#32 else 0#32).toNat = b.toNat := by cases b <;> rfl
  have hfit : r.toNat <<< 1 < 2 ^ 32 := by rw [Nat.shiftLeft_eq]; omega
  have hlow : b.toNat < 2 ^ 1 := by have := b.toNat_le; omega
  rw [crcStep_eq, hmsb, if_neg Bool.false_ne_true, BitVec.xor_zero, BitVec.toNat_or, hbit,
    BitVec.toNat_shiftLeft, Nat.mod_eq_of_lt hfit, ← Nat.shiftLeft_add_eq_or_of_lt hlow, Nat.shiftLeft_eq]
  omega

end Step

/-! ## The register over a sequence -/

/-- The division register after `s`, from `r`. -/
def crcRun (r : BitVec 32) (s : BitSeq) : BitVec 32 := s.foldl crcStep r

section Run
variable (r r' : BitVec 32) (s t : BitSeq)

theorem polymod_eq_crcRun : polymod s = crcRun 0#32 s := rfl

@[simp] theorem crcRun_cons (b : Bit) : crcRun r (b :: s) = crcRun (crcStep r b) s := rfl

theorem crcRun_append : crcRun r (s ++ t) = crcRun (crcRun r s) t := List.foldl_append

theorem polymod_append : polymod (s ++ t) = crcRun (polymod s) t := crcRun_append ..

theorem polymod_append_one (b : Bit) : polymod (s ++ [b]) = crcStep (polymod s) b := polymod_append ..

theorem crcRun_zeros (n : Nat) : crcRun 0#32 (rep false n) = 0#32 := by
  induction n with
  | zero => rfl
  | succ n ih => rwa [rep, List.replicate_succ, crcRun_cons, crcStep_zero]

variable {r r' s} in
theorem crcRun_injective (h : crcRun r s = crcRun r' s) : r = r' := by
  induction s generalizing r r' with
  | nil => exact h
  | cons b s ih => exact crcStep_injective (ih h)

/-- Linearity: the sum of two runs, one over zeros, is the run of the sum. -/
theorem crcRun_xor : crcRun (r ^^^ r') s = crcRun r (rep false s.length) ^^^ crcRun r' s := by
  induction s generalizing r r' with
  | nil => rfl
  | cons b s ih =>
    rw [crcRun_cons, crcStep_xor, ih]
    rfl

/-- Up to 32 bits nothing is divided. -/
theorem toNat_polymod_of_short {s : BitSeq} (hs : s.length ≤ 32) : (polymod s).toNat = val s := by
  induction s using List.reverseRecOn with
  | nil => rfl
  | append_singleton s b ih =>
    rw [List.length_append, List.length_singleton] at hs
    have hval := ih (by omega)
    have hlt : val s < 2 ^ 31 := (val_lt s).trans_le (Nat.pow_le_pow_right two_pos (by omega))
    rw [polymod_append_one, toNat_crcStep_of_lt (by rw [hval]; exact hlt), hval, val_append_one]

/-- The bits of a register, divided alone, are the register. -/
theorem polymod_bitsN : polymod (bitsN 32 r.toNat) = r := by
  refine BitVec.eq_of_toNat_eq ?_
  rw [toNat_polymod_of_short (by simp), val_bitsN r.isLt]

/-- A sequence followed by the remainder of the sequence times `x^32` leaves no remainder (R109). -/
theorem polymod_append_remainder :
    polymod (s ++ bitsN 32 (polymod (s ++ rep false 32)).toNat) = 0#32 := by
  have hsum := crcRun_xor (polymod s) 0#32 (bitsN 32 (polymod (s ++ rep false 32)).toNat)
  rw [BitVec.xor_zero, length_bitsN, ← polymod_append, ← polymod_append, ← polymod_eq_crcRun,
    polymod_bitsN, BitVec.xor_self] at hsum
  exact hsum

/-- A flipped bit changes the remainder. -/
theorem polymod_modify_ne {j : Nat} (hj : j < s.length) : polymod (s.modify j not) ≠ polymod s := by
  obtain ⟨u, x, v, rfl, rfl⟩ : ∃ u x v, s = u ++ x :: v ∧ u.length = j :=
    ⟨s.take j, s[j], s.drop (j + 1), by simp, by simp; omega⟩
  rw [modify_append_cons, polymod_append, polymod_append, crcRun_cons, crcRun_cons]
  intro h
  have hbit := congrArg (·.getLsbD 0) (crcRun_injective h)
  simp only [getLsbD_crcStep_zero] at hbit
  cases x <;> simp at hbit

end Run

/-! ## The statements on the register -/

/-- Settles O46. -/
theorem polymodIsTheBitSerialDivider : Obligations.PolymodIsTheBitSerialDivider := by
  refine ⟨rfl, fun s b => ?_, fun s => toNat_polymod_of_short, fun s n => ?_, by decide +kernel⟩
  · have hmsb : (polymod s).msb = true ↔ (polymod s).toNat / 2 ^ 31 = 1 := by
      have hlt : (polymod s).toNat < 2 ^ 32 := (polymod s).isLt
      rw [BitVec.msb_eq_decide, decide_eq_true_iff]
      show 2 ^ 31 ≤ _ ↔ _
      omega
    rw [polymod_append_one, crcStep_eq, if_congr hmsb rfl rfl]
    rfl
  · rw [polymod_append, polymod_eq_crcRun (rep false n), crcRun_zeros]
    rfl

/-- Settles O51: the 32 steps take 0 to 0 and no other register to 0. -/
theorem appendedZerosDoNotChangeTheFlag : Obligations.AppendedZerosDoNotChangeTheFlag := by
  intro x
  rw [polymod_append]
  exact ⟨fun h => by rw [h, crcRun_zeros], fun h => crcRun_injective (h.trans (crcRun_zeros 32).symm)⟩

/-! ## The remainder of polynomial division -/

section Division
open Polynomial Finset

/-- The element of GF(2) a bit is. -/
def bitGF (b : Bit) : ZMod 2 := if b then 1 else 0

@[simp] theorem bitGF_false : bitGF false = 0 := rfl

theorem bitGF_xor (a b : Bit) : bitGF (a ^^ b) = bitGF a + bitGF b := by
  cases a <;> cases b <;> decide

theorem bitGF_and (a b : Bit) : bitGF (a && b) = bitGF a * bitGF b := by
  cases a <;> cases b <;> decide

theorem polyOf_append_one (s : BitSeq) (b : Bit) : polyOf (s ++ [b]) = polyOf s * X + C (bitGF b) := by
  simp [polyOf, bitGF]

/-- The bits of a number are the coefficients, by their weight. -/
theorem polyOf_bitsN (n v : Nat) : polyOf (bitsN n v) = ∑ i ∈ range n, C (bitGF (v.testBit i)) * X ^ i := by
  induction n generalizing v with
  | zero => simp [polyOf, bitsN]
  | succ n ih =>
    rw [bitsN_succ, polyOf_append_one, ih, sum_range_succ', sum_mul]
    simp only [Nat.testBit_succ, pow_zero, mul_one, pow_succ, mul_assoc]

/-- The polynomial of the register. -/
noncomputable def crcPolynomial (r : BitVec 32) : (ZMod 2)[X] :=
  ∑ i ∈ range 32, C (bitGF (r.getLsbD i)) * X ^ i

theorem polyOf_bitsN_toNat (r : BitVec 32) : polyOf (bitsN 32 r.toNat) = crcPolynomial r :=
  polyOf_bitsN 32 r.toNat

theorem polyOf_cons (b : Bit) (s : BitSeq) : polyOf (b :: s) = C (bitGF b) * X ^ s.length + polyOf s := by
  induction s using List.reverseRecOn with
  | nil => simp [polyOf, bitGF]
  | append_singleton s c ih =>
    rw [← List.cons_append, polyOf_append_one, ih, polyOf_append_one, List.length_append,
      List.length_singleton, pow_succ]
    ring

theorem crcGenerator_eq : crcGenerator = X ^ 32 + crcPolynomial Config.crcPoly := by
  rw [crcGenerator, polyOf_cons, polyOf_bitsN_toNat, length_bitsN]
  simp [bitGF]

theorem crcPolynomial_eq_high_add_low (r : BitVec 32) : crcPolynomial r =
    ∑ i ∈ range 31, C (bitGF (r.getLsbD (i + 1))) * X ^ (i + 1) + C (bitGF (r.getLsbD 0)) := by
  rw [crcPolynomial, sum_range_succ', pow_zero, mul_one]

/-- A step multiplies by `x`, adds the new bit and, when a 1 leaves, subtracts the generator. -/
theorem crcPolynomial_crcStep (r : BitVec 32) (b : Bit) :
    crcPolynomial r * X + C (bitGF b) = C (bitGF r.msb) * crcGenerator + crcPolynomial (crcStep r b) := by
  have hmsb : r.msb = r.getLsbD 31 := BitVec.msb_eq_getLsbD_last r
  have hstep : crcPolynomial (crcStep r b) =
      ∑ i ∈ range 31, C (bitGF (r.getLsbD i)) * X ^ (i + 1) + C (bitGF b) +
        C (bitGF r.msb) * crcPolynomial Config.crcPoly := by
    have hsucc : ∀ i ∈ range 31, C (bitGF ((crcStep r b).getLsbD (i + 1))) * X ^ (i + 1) =
        C (bitGF (r.getLsbD i)) * X ^ (i + 1) +
          C (bitGF r.msb) * (C (bitGF (Config.crcPoly.getLsbD (i + 1))) * X ^ (i + 1)) := by
      intro i hi
      rw [getLsbD_crcStep_succ r b (mem_range.mp hi), bitGF_xor, bitGF_and, C_add, C_mul]
      ring
    rw [crcPolynomial_eq_high_add_low (crcStep r b), sum_congr rfl hsucc, sum_add_distrib, ← mul_sum,
      getLsbD_crcStep_zero, bitGF_xor, C_add, crcPolynomial_eq_high_add_low Config.crcPoly, crcPoly_bit_zero,
      show C (bitGF true) = (1 : (ZMod 2)[X]) from map_one C]
    ring
  have htop : crcPolynomial r * X =
      ∑ i ∈ range 31, C (bitGF (r.getLsbD i)) * X ^ (i + 1) + C (bitGF r.msb) * X ^ 32 := by
    rw [crcPolynomial, sum_range_succ, add_mul, sum_mul, hmsb]
    simp only [pow_succ, mul_assoc]
  rw [hstep, htop, crcGenerator_eq]
  have htwo : C (bitGF r.msb) * crcPolynomial Config.crcPoly + C (bitGF r.msb) * crcPolynomial Config.crcPoly = 0 :=
    CharTwo.add_self_eq_zero _
  linear_combination (-1 : (ZMod 2)[X]) * htwo

/-- Settles O47: one more bit of the dividend multiplies the quotient by `x` and adds the bit that
leaves the register. -/
theorem crcIsThePolynomialRemainder : Obligations.CrcIsThePolynomialRemainder := by
  intro s
  simp only [polyOf_bitsN_toNat]
  induction s using List.reverseRecOn with
  | nil => exact ⟨0, by simp [polyOf, crcPolynomial, polymod]⟩
  | append_singleton s b ih =>
    obtain ⟨q, hq⟩ := ih
    refine ⟨q * X + C (bitGF (polymod s).msb), ?_⟩
    rw [polyOf_append_one, hq, polymod_append_one]
    linear_combination crcPolynomial_crcStep (polymod s) b

end Division

end Sys2Proof.Machine
end

section
/-! The error checks frame by frame (42_parity_crc.md R100, R102, R108, R109): what `CHECK.PAR` and
`CHECK.CRC` leave, where every `CHECK` faults, and that the CRC detects a flipped bit. -/

namespace Sys2Proof.Machine

/-! ## The end of a `CHECK` -/

theorem eflag_eq_add (err cor : Bool) :
    eflag err cor = (if err then 1#2 else 0#2) + (if cor then 2#2 else 0#2) := by
  cases err <;> cases cor <;> decide

/-- The summary flags fall on bits that the mask has cleared. -/
theorem statusDone_eq_add (x : BitVec 8) (err cor : Bool) :
    statusDone x err cor =
      (x &&& 0xF8#8) + (if err then 2#8 else 0#8) + (if cor then 4#8 else 0#8) := by
  have hclear : ∀ y : BitVec 8, 0xF8#8 &&& y = 0#8 → (x &&& 0xF8#8) + y = (x &&& 0xF8#8) ||| y := by
    intro y hy
    rw [BitVec.add_eq_or_of_and_eq_zero]
    rw [BitVec.and_assoc, hy, BitVec.and_zero]
  rw [statusDone, BitVec.or_assoc, BitVec.add_assoc, hclear]
  · cases err <;> cases cor <;> simp
  · cases err <;> cases cor <;> decide

theorem finishCheck_eq_checkedState (s : State) (rs : List Checked) :
    s.finishCheck rs = checkedState s (rs.map fun r => (r.clean, r.err, r.cor)) := by
  simp only [State.finishCheck, State.complete, checkedState, List.map_map, List.any_map, statusDone_eq_add,
    eflag_eq_add]
  rfl

section Rules
variable {s t : State} {f g : List Frame} {x : Frame} {r : Raise}

/-! ## A `CHECK` that faults -/

theorem exec_checkPar_of_error (h : s.buf = .frames f) (hf : forFrames checkParFrame 0 f = .error r) :
    exec .checkPar s = .next (faultState s r.cause.code r.finfo r.fpos) := by
  change onFrames s _ = _
  rw [onFrames_of_frames h, hf]
  exact congrArg _ (enterFault_eq_faultState s r)

theorem exec_checkCrc_of_error (h : s.buf = .frames f)
    (hf : forFrames (checkCrcFrame s.filltab) 0 f = .error r) :
    exec .checkCrc s = .next (faultState s r.cause.code r.finfo r.fpos) := by
  change onFrames s _ = _
  rw [onFrames_of_frames h, hf]
  exact congrArg _ (enterFault_eq_faultState s r)

theorem exec_checkHam_of_error (h : s.buf = .frames f) (hf : forFrames checkHamFrame 0 f = .error r) :
    exec .checkHam s = .next (faultState s r.cause.code r.finfo r.fpos) := by
  change onFrames s _ = _
  rw [onFrames_of_frames h, hf]
  exact congrArg _ (enterFault_eq_faultState s r)

/-! ## `CHECK.CRC` of one frame -/

/-- What checking the CRC of a frame gives, with the fill recorded for it (R108). -/
def crcChecked (fill : Nat) (x : Frame) : Checked where
  clean := x.body.take (x.body.length - x.pad.toNat - 32 - fill)
  err := decide (polymod (stripped x) ≠ 0#32)
  cor := false

theorem checkCrcFrame_ok {tab : List Byte} {k : Nat}
    (h : x.pad.toNat + 32 + (tab.getD k 0#8).toNat ≤ x.body.length) :
    checkCrcFrame tab k x = .ok (crcChecked (tab.getD k 0#8).toNat x, polymod (stripped x)) := by
  have hlen := length_stripped x
  have hbody : (stripped x).take ((stripped x).length - 32) =
      x.body.take (x.body.length - x.pad.toNat - 32) := by
    rw [hlen, stripped, List.take_take, Nat.min_eq_left (by omega)]
  have hbodyLen : (x.body.take (x.body.length - x.pad.toNat - 32)).length =
      x.body.length - x.pad.toNat - 32 := List.length_take_of_le (by omega)
  have hclean : (x.body.take (x.body.length - x.pad.toNat - 32)).take
      (x.body.length - x.pad.toNat - 32 - (tab.getD k 0#8).toNat) =
      x.body.take (x.body.length - x.pad.toNat - 32 - (tab.getD k 0#8).toNat) := by
    rw [List.take_take, Nat.min_eq_left (by omega)]
  simp only [checkCrcFrame, stripPad_eq_stripped k (show x.pad.toNat ≤ x.body.length by omega), slice,
    List.drop_zero, fillAt, Config.crcBits, if_neg (show ¬ (stripped x).length < 32 by omega), hbody, hbodyLen,
    if_neg (show ¬ x.body.length - x.pad.toNat - 32 < (tab.getD k 0#8).toNat by omega), hclean, crcChecked]

theorem checkCrcFrame_tooShort {tab : List Byte} {k : Nat} (hpad : x.pad.toNat ≤ x.body.length)
    (h : x.body.length < x.pad.toNat + 32) : checkCrcFrame tab k x = .error ⟨.checkTooShort, k, 0⟩ := by
  have hlen := length_stripped x
  simp only [checkCrcFrame, stripPad_eq_stripped k hpad, Config.crcBits,
    if_pos (show (stripped x).length < 32 by omega)]

theorem checkCrcFrame_fillExceedsBody {tab : List Byte} {k : Nat} (h32 : x.pad.toNat + 32 ≤ x.body.length)
    (h : x.body.length < x.pad.toNat + 32 + (tab.getD k 0#8).toNat) :
    checkCrcFrame tab k x = .error ⟨.fillExceedsBody, k, 0⟩ := by
  have hlen := length_stripped x
  simp only [checkCrcFrame, stripPad_eq_stripped k (show x.pad.toNat ≤ x.body.length by omega), slice,
    List.drop_zero, fillAt, Config.crcBits, if_neg (show ¬ (stripped x).length < 32 by omega)]
  rw [if_pos (by rw [List.length_take]; omega)]

theorem checkCrcFrame_padExceedsBody {tab : List Byte} {k : Nat} (h : x.body.length < x.pad.toNat) :
    checkCrcFrame tab k x = .error ⟨.padExceedsBody, k, 0⟩ := by
  simp [checkCrcFrame, stripPad_error h]

/-! ## The other checks of one frame, where they fault -/

theorem checkParFrame_padExceedsBody {k : Nat} (h : x.body.length < x.pad.toNat) :
    checkParFrame k x = .error ⟨.padExceedsBody, k, 0⟩ := by
  simp [checkParFrame, stripPad_error h]

theorem checkParFrame_tooShort {k : Nat} (h : x.body.length = x.pad.toNat) :
    checkParFrame k x = .error ⟨.checkTooShort, k, 0⟩ := by
  have hlen : (stripped x).length = 0 := by rw [length_stripped]; omega
  simp only [checkParFrame, stripPad_eq_stripped k h.ge, if_pos hlen]

theorem checkHamFrame_padExceedsBody {k : Nat} (h : x.body.length < x.pad.toNat) :
    checkHamFrame k x = .error ⟨.padExceedsBody, k, 0⟩ := by
  simp [checkHamFrame, stripPad_error h]

theorem checkHamFrame_ok {k : Nat} (h : x.pad.toNat ≤ x.body.length) :
    checkHamFrame k x = .ok (checkHam (stripped x)) := by
  simp only [checkHamFrame, stripPad_eq_stripped k h]

/-! ## `CHECK.CRC` of all frames -/

/-- The hypothesis of R108 at the frame of an index. -/
theorem longEnough_of_getElem? {tab : List Byte}
    (hf : ∀ k, k < f.length → (f.getD k default).pad.toNat + 32 + (tab.getD k 0#8).toNat
      ≤ (f.getD k default).body.length) {k : Nat} (hk : f[k]? = some x) :
    x.pad.toNat + 32 + (tab.getD k 0#8).toNat ≤ x.body.length := by
  obtain ⟨hlt, -⟩ := List.getElem?_eq_some_iff.mp hk
  simpa [hk] using hf k hlt

theorem exec_checkCrc (h : s.buf = .frames f)
    (hf : ∀ k, k < f.length → (f.getD k default).pad.toNat + 32 + (s.filltab.getD k 0#8).toNat
      ≤ (f.getD k default).body.length) :
    exec .checkCrc s = .next
      { s.finishCheck (f.mapIdx fun k x => crcChecked (s.filltab.getD k 0#8).toNat x) with
        crcrem := f.getLast?.elim s.crcrem fun x => polymod (stripped x) } := by
  have hall := forFrames_ok (g := checkCrcFrame s.filltab)
    (h := fun k x => (crcChecked (s.filltab.getD k 0#8).toNat x, polymod (stripped x))) 0 f fun k x hk =>
      checkCrcFrame_ok (by simpa using longEnough_of_getElem? hf hk)
  change onFrames s _ = _
  rw [onFrames_of_frames h, hall]
  have hfst : ((f.mapIdx fun k x => (crcChecked (s.filltab.getD k 0#8).toNat x, polymod (stripped x))).map
      Prod.fst) = f.mapIdx fun k x => crcChecked (s.filltab.getD k 0#8).toNat x :=
    List.ext_getElem (by simp) (by simp)
  have hsnd : ((f.mapIdx fun k x => (crcChecked (s.filltab.getD k 0#8).toNat x, polymod (stripped x))).map
      Prod.snd) = f.map fun x => polymod (stripped x) :=
    List.ext_getElem (by simp) (by simp)
  simp only [settle_ok, Nat.zero_add, hfst, hsnd, lastOr_map]

/-- One frame without padding, as `PROTECT.CRC` leaves it. -/
theorem exec_checkCrc_unpadded {b : BitSeq} (h : s.buf = .frames [⟨b, 0#8⟩])
    (hb : 32 + (s.filltab.getD 0 0#8).toNat ≤ b.length) :
    exec .checkCrc s = .next
      { s.finishCheck [⟨b.take (b.length - 32 - (s.filltab.getD 0 0#8).toNat),
          decide (polymod b ≠ 0#32), false⟩] with crcrem := polymod b } := by
  have hstrip : stripped ⟨b, 0#8⟩ = b := by simp [stripped]
  rw [exec_checkCrc h (by simpa using hb)]
  simp [crcChecked, hstrip]

end Rules

/-! ## The statements -/

/-- Settles O43. -/
theorem checkParReportsOddOnes : Obligations.CheckParReportsOddOnes := by
  refine ⟨by decide, kindChecked_of_ne_modQam8 (by decide), fun s f h hf => ?_⟩
  have hclean : ∀ x : Frame, (stripped x).dropLast = x.body.take (x.body.length - x.pad.toNat - 1) := by
    intro x
    rw [List.dropLast_eq_take, length_stripped, stripped, List.take_take, Nat.min_eq_left (by omega)]
  rw [exec_checkPar h hf, finishCheck_eq_checkedState, List.map_map]
  simp only [Function.comp_def, parChecked, hclean]
  rfl

/-- Settles O49. -/
theorem checkCrcReportsTheResidue : Obligations.CheckCrcReportsTheResidue := by
  refine ⟨by decide, kindChecked_of_ne_modQam8 (by decide), fun s f h hf => ?_⟩
  have hmap : (f.mapIdx fun k x => crcChecked (s.filltab.getD k 0#8).toNat x).map
      (fun r => (r.clean, r.err, r.cor)) = f.mapIdx fun k x =>
        (x.body.take (x.body.length - x.pad.toNat - 32 - (s.filltab.getD k 0#8).toNat),
          decide (polymod (x.body.take (x.body.length - x.pad.toNat)) ≠ 0#32), false) :=
    List.ext_getElem (by simp) fun k _ _ => by
      rw [List.getElem_map, List.getElem_mapIdx, List.getElem_mapIdx]
      rfl
  rw [exec_checkCrc h hf, finishCheck_eq_checkedState, hmap]
  cases f.getLast? <;> rfl

theorem forFrames_first_bad {α : Type} {check : Nat → Frame → Except Raise α} {f g : List Frame} {x : Frame}
    {c : Cause} (hgood : ∀ j (y : Frame), f[j]? = some y → ∃ a, check j y = .ok a)
    (hbad : check f.length x = .error ⟨c, f.length, 0⟩) :
    forFrames check 0 (f ++ x :: g) = .error ⟨c, f.length, 0⟩ :=
  forFrames_error 0 f (by simpa using hgood) (by simpa using hbad)

/-- Settles O44: the frames before the bad one are checked, and it raises what R154 says. -/
theorem checkFaultsAtTheFirstBadFrame : Obligations.CheckFaultsAtTheFirstBadFrame := by
  intro s f g x h
  refine ⟨fun hf => ?_, fun hf hx => ?_, fun hf => ?_⟩
  · have hgood : ∀ j (y : Frame), f[j]? = some y → ∃ a, checkParFrame j y = .ok a := fun j y hy =>
      ⟨_, checkParFrame_ok j (hf y (List.mem_of_getElem? hy))⟩
    refine ⟨fun hx => ?_, fun hx => ?_⟩
    · exact exec_checkPar_of_error h (forFrames_first_bad hgood (checkParFrame_padExceedsBody hx))
    · exact exec_checkPar_of_error h (forFrames_first_bad hgood (checkParFrame_tooShort hx))
  · have hgood : ∀ j (y : Frame), f[j]? = some y → ∃ a, checkHamFrame j y = .ok a := fun j y hy =>
      ⟨_, checkHamFrame_ok (hf y (List.mem_of_getElem? hy))⟩
    exact exec_checkHam_of_error h (forFrames_first_bad hgood (checkHamFrame_padExceedsBody hx))
  · have hgood : ∀ j (y : Frame), f[j]? = some y → ∃ a, checkCrcFrame s.filltab j y = .ok a :=
      fun j y hy => ⟨_, checkCrcFrame_ok (longEnough_of_getElem? hf hy)⟩
    refine ⟨fun hx => ?_, fun hpad hx => ?_, fun h32 hx => ?_⟩
    · exact exec_checkCrc_of_error h (forFrames_first_bad hgood (checkCrcFrame_padExceedsBody hx))
    · exact exec_checkCrc_of_error h (forFrames_first_bad hgood (checkCrcFrame_tooShort hpad hx))
    · exact exec_checkCrc_of_error h (forFrames_first_bad hgood (checkCrcFrame_fillExceedsBody h32 hx))

/-! ## What `PROTECT.CRC` wrote -/

theorem polymod_protectCrc (m : BitSeq) : polymod (protectCrc m) = 0#32 := polymod_append_remainder _

/-- Without its CRC field and its filler a protected payload is the payload. -/
theorem take_protectCrc (m : BitSeq) :
    (protectCrc m).take ((protectCrc m).length - 32 - (64 - m.length)) = m := by
  have hlen : (protectCrc m).length - 32 - (64 - m.length) = m.length := by
    rw [length_protectCrc]
    omega
  rw [hlen, protectCrc, filled, List.append_assoc, List.take_left]

/-- Settles O50: a flipped bit changes the remainder, which was 0. -/
theorem crcDetectsEverySingleFlip : Obligations.CrcDetectsEverySingleFlip := by
  intro s t m body pad hs ht hbody
  obtain rfl := Host.Outcome.next.inj ((exec_protectCrc hs).symm.trans ht)
  obtain rfl : protectCrc m = body := by simpa [protectFrames, doneState] using hbody
  have hmod : (64 - m.length) % 256 = 64 - m.length := Nat.mod_eq_of_lt (by omega)
  have hfill : 32 + (64 - m.length) ≤ (protectCrc m).length := by
    rw [length_protectCrc]
    omega
  refine ⟨⟨_, exec_checkCrc_unpadded hbody ?_, ?_⟩, fun j hj => ⟨_, exec_checkCrc_unpadded rfl ?_, ?_⟩⟩
  · simpa [hmod] using hfill
  · simp [hmod, take_protectCrc, polymod_protectCrc, eflag]
  · simpa [hmod] using hfill
  · have hres : polymod ((protectCrc m).modify j not) ≠ 0#32 :=
      polymod_protectCrc m ▸ polymod_modify_ne _ hj
    simp [hres, eflag, State.errBit, statusDone_bits]

end Sys2Proof.Machine
end

section
/-! The checking half of the Hamming code (43_hamming.md R122, R123): the syndrome bit by bit, what a
flipped bit does to it, and what `CHECK.HAM` makes of one and of two flipped bits. -/

namespace Sys2Proof.Machine

/-! ## The syndrome -/

theorem lt_bitlen_iff {k i : Nat} : i < bitlen k ↔ 2 ^ i ≤ k := by
  unfold bitlen
  split
  · next h => simp [h]
  · next h => rw [Nat.lt_succ_iff, Nat.le_log2 h]

/-- A sum of distinct powers of two has its bits where they say. -/
theorem testBit_sum_two_pow (g : Nat → Bool) (n i : Nat) :
    ((List.range n).map fun i => (g i).toNat * 2 ^ i).sum < 2 ^ n ∧
    ((List.range n).map fun i => (g i).toNat * 2 ^ i).sum.testBit i = (decide (i < n) && g i) := by
  induction n with
  | zero => simp
  | succ n ih =>
    obtain ⟨hlt, hbit⟩ := ih
    rw [List.range_succ, List.map_append, List.sum_append, List.map_singleton, List.sum_singleton,
      Nat.add_comm, Nat.mul_comm]
    constructor
    · have := (g n).toNat_le
      have : 2 ^ n * (g n).toNat ≤ 2 ^ n * 1 := Nat.mul_le_mul_left _ this
      rw [Nat.pow_succ]
      omega
    · rw [Nat.testBit_two_pow_mul_add _ hlt, hbit]
      by_cases hi : i < n
      · simp [hi, show i < n + 1 by omega]
      · by_cases hin : i = n
        · subst hin
          cases g i <;> simp
        · rw [if_neg hi]
          obtain ⟨k, hk⟩ : ∃ k, i - n = k + 1 := ⟨i - n - 1, by omega⟩
          rw [hk, Nat.testBit_succ]
          cases g n <;> simp <;> omega

theorem testBit_syndrome (c : BitSeq) (i : Nat) :
    (syndrome c).testBit i = (decide (i < bitlen c.length) && groupXor c i) :=
  (testBit_sum_two_pow (groupXor c) (bitlen c.length) i).2

theorem modify_not_eq_set (c : BitSeq) (j : Nat) : c.modify j not = c.set j (!c.getD j false) := by
  induction c generalizing j with
  | nil => simp
  | cons x c ih => cases j <;> simp [ih]

/-- A flipped bit changes the groups its position is in. -/
theorem groupXor_modify {c : BitSeq} {j : Nat} (hj : j < c.length) (i : Nat) :
    groupXor (c.modify j not) i = (groupXor c i ^^ (j + 1).testBit i) := by
  rw [modify_not_eq_set, groupXor_eq_bitsAt, groupXor_eq_bitsAt, Nat.add_comm]
  cases hq : (1 + j).testBit i with
  | true =>
    rw [xorAll_bitsAt_set (q := (·.testBit i)) hq hj]
    cases c.getD j false <;> simp
  | false => rw [bitsAt_set_of_not (q := (·.testBit i)) hq, Bool.xor_false]

/-- A flipped bit adds its position to the syndrome. -/
theorem syndrome_modify {c : BitSeq} {j : Nat} (hj : j < c.length) :
    syndrome (c.modify j not) = syndrome c ^^^ (j + 1) := by
  refine Nat.eq_of_testBit_eq fun i => ?_
  rw [testBit_syndrome, List.length_modify, groupXor_modify hj, Nat.testBit_xor, testBit_syndrome]
  by_cases hi : i < bitlen c.length
  · simp [hi]
  · have hhigh : (j + 1).testBit i = false := Nat.testBit_lt_two_pow (by
      have := mt lt_bitlen_iff.mpr hi
      omega)
    simp [hi, hhigh]

theorem syndrome_protectHam (m : BitSeq) : syndrome (protectHam m) = 0 := by
  refine Nat.eq_of_testBit_eq fun i => ?_
  rw [testBit_syndrome, Nat.zero_testBit]
  by_cases hi : i < bitlen (protectHam m).length
  · rw [groupXor_protectHam, Bool.and_false]
    rwa [lt_bitlen_iff, length_protectHam, two_pow_le_codeword_length_iff] at hi
  · simp [hi]

/-! ## The check of one word -/

/-- The word with the position the syndrome names flipped, where it names one of the word. -/
def hamFixed (c : BitSeq) : BitSeq :=
  if 0 < syndrome c ∧ syndrome c ≤ c.length then c.modify (syndrome c - 1) not else c

theorem checkHam_eq (c : BitSeq) : checkHam c =
    (⟨hamData (hamFixed c), decide (c.length < syndrome c),
      decide (0 < syndrome c ∧ syndrome c ≤ c.length)⟩, syndrome c) := by
  by_cases h0 : syndrome c = 0
  · simp [checkHam, hamFixed, h0]
  · by_cases hle : syndrome c ≤ c.length
    · simp [checkHam, hamFixed, h0, hle, Nat.pos_of_ne_zero h0]
    · simp [checkHam, hamFixed, h0, hle, not_le.mp hle]

theorem modify_not_not (c : BitSeq) (j : Nat) : (c.modify j not).modify j not = c := by
  induction c generalizing j with
  | nil => simp
  | cons x c ih => cases j <;> simp [ih]

section Rules
variable {s : State} {f : List Frame}

theorem finishCheck_errBit (rs : List Checked) : (s.finishCheck rs).errBit = rs.any (·.err) :=
  (statusDone_bits s.status _ _).2.1

theorem finishCheck_corBit (rs : List Checked) : (s.finishCheck rs).corBit = rs.any (·.cor) :=
  (statusDone_bits s.status _ _).2.2.1

theorem exec_checkHam (h : s.buf = .frames f) (hf : ∀ x ∈ f, x.pad.toNat ≤ x.body.length) :
    exec .checkHam s = .next
      { s.finishCheck (f.map fun x => (checkHam (stripped x)).1) with
        syn := f.getLast?.elim s.syn fun x => syndrome (stripped x) } := by
  have hall := forFrames_ok_map (h := fun x => checkHam (stripped x)) 0 fun j x hx =>
    checkHamFrame_ok (k := j) (hf x hx)
  change onFrames s _ = _
  rw [onFrames_of_frames h, hall]
  simp only [settle_ok, List.map_map, lastOr_map, Function.comp_def, checkHam_eq]

/-- One word without padding. -/
theorem exec_checkHam_unpadded {c : BitSeq} (h : s.buf = .frames [⟨c, 0#8⟩]) :
    exec .checkHam s = .next { s.finishCheck [(checkHam c).1] with syn := syndrome c } := by
  simpa [stripped] using exec_checkHam h (by simp)

end Rules

/-! ## Words that differ -/

/-- Words of one length that read the same at the chosen positions agree there. -/
theorem getD_eq_of_bitsAt_eq {q : Nat → Bool} {p j : Nat} {c d : BitSeq} (hlen : c.length = d.length)
    (h : bitsAt q p c = bitsAt q p d) (hj : q (p + j) = true) : c.getD j false = d.getD j false := by
  induction c generalizing p j d with
  | nil =>
    obtain rfl := List.length_eq_zero_iff.mp hlen.symm
    rfl
  | cons x c ih =>
    cases d with
    | nil => cases hlen
    | cons y d =>
      have hlen' : c.length = d.length := Nat.succ.inj hlen
      rw [bitsAt_cons, bitsAt_cons] at h
      cases j with
      | zero => simp_all
      | succ j =>
        have hrest : bitsAt q (p + 1) c = bitsAt q (p + 1) d := by
          split at h
          · exact (List.cons.inj h).2
          · exact h
        simpa using ih hlen' hrest (by rwa [Nat.add_right_comm])

/-- Two different powers of two do not add up to a third (without carry). -/
theorem not_three_pow2 {a b : Nat} (ha : isPow2 a = true) (hb : isPow2 b = true) (hab : a ≠ b) :
    isPow2 (a ^^^ b) = false := by
  obtain ⟨x, rfl⟩ := isPow2_iff.mp ha
  obtain ⟨y, rfl⟩ := isPow2_iff.mp hb
  refine Bool.eq_false_iff.mpr fun h => ?_
  obtain ⟨z, hz⟩ := isPow2_iff.mp h
  have hx := congrArg (·.testBit x) hz
  have hy := congrArg (·.testBit y) hz
  simp only [Nat.testBit_xor, Nat.testBit_two_pow] at hx hy
  have hne : x ≠ y := by rintro rfl; exact hab rfl
  simp [hne, hne.symm] at hx hy
  omega

theorem getD_modify_self {c : BitSeq} {j : Nat} (hj : j < c.length) :
    (c.modify j not).getD j false = !c.getD j false := by
  simp [hj]

theorem getD_modify_of_ne {c : BitSeq} {j k : Nat} (h : j ≠ k) :
    (c.modify j not).getD k false = c.getD k false := by
  simp [List.getD_eq_getElem?_getD, h]

/-- Three flips, of two positions and of their sum, reach a data position: three parity positions never
add up so. -/
theorem hamData_three_flips_ne {c : BitSeq} {i j : Nat} (hi : i < c.length) (hj : j < c.length) (hij : i ≠ j)
    (hk : ((i + 1) ^^^ (j + 1)) ≤ c.length) :
    hamData (((c.modify i not).modify j not).modify (((i + 1) ^^^ (j + 1)) - 1) not) ≠ hamData c := by
  obtain ⟨k, hkx⟩ : ∃ k, (i + 1) ^^^ (j + 1) = k + 1 := Nat.exists_eq_succ_of_ne_zero fun h => by
    rw [Nat.xor_eq_zero_iff] at h
    omega
  have hik : i ≠ k := by
    rintro rfl
    have : j + 1 = 0 := by simpa using congrArg ((i + 1) ^^^ ·) hkx
    omega
  have hjk : j ≠ k := by
    rintro rfl
    have : i + 1 = 0 := by simpa using congrArg (· ^^^ (j + 1)) hkx
    omega
  rw [hkx] at hk ⊢
  rw [Nat.add_sub_cancel]
  intro h
  have hpow (l : Nat) (hl : (((c.modify i not).modify j not).modify k not).getD l false = !c.getD l false) :
      isPow2 (l + 1) = true := by
    by_contra hn
    rw [getD_eq_of_bitsAt_eq (q := (!isPow2 ·)) (p := 1) (by simp) h (by simpa [Nat.add_comm] using hn)] at hl
    cases c.getD l false <;> simp at hl
  have hpk := not_three_pow2
    (hpow i (by rw [getD_modify_of_ne hik.symm, getD_modify_of_ne hij.symm, getD_modify_self hi]))
    (hpow j (by rw [getD_modify_of_ne hjk.symm, getD_modify_self (by simpa), getD_modify_of_ne hij]))
    (by omega)
  rw [hkx, hpow k (by rw [getD_modify_self (by simpa), getD_modify_of_ne hjk, getD_modify_of_ne hik])] at hpk
  cases hpk

/-! ## The statements -/

/-- Settles O53. -/
theorem checkHamCorrectsByTheSyndrome : Obligations.CheckHamCorrectsByTheSyndrome := by
  refine ⟨by decide, kindChecked_of_ne_modQam8 (by decide), syndrome, fun c i => ?_, fun s f h hf => ?_⟩
  · rw [testBit_syndrome, ← groupXor_toNat]
    cases groupXor c i <;> rfl
  · rw [exec_checkHam h hf, finishCheck_eq_checkedState, List.map_map]
    simp only [Function.comp_def, checkHam_eq]
    cases f.getLast? <;> rfl

/-- Settles O54: the syndrome of a codeword is 0, that of one flip its position. -/
theorem hammingCorrectsEverySingleFlip : Obligations.HammingCorrectsEverySingleFlip := by
  intro s t m body pad hs ht hbody
  obtain rfl := Host.Outcome.next.inj ((exec_protectHam hs).symm.trans ht)
  obtain rfl : protectHam m = body := by simpa [protectFrames] using hbody
  refine ⟨⟨_, exec_checkHam_unpadded hbody, ?_⟩, fun j hj => ⟨_, exec_checkHam_unpadded rfl, ?_⟩⟩
  · simp [checkHam_eq, hamFixed, syndrome_protectHam, hamData_protectHam, eflag]
  · have hsyn : syndrome ((protectHam m).modify j not) = j + 1 := by
      rw [syndrome_modify hj, syndrome_protectHam, Nat.zero_xor]
    have hle : ¬ (protectHam m).length ≤ j := not_le.mpr hj
    exact ⟨by simp [checkHam_eq, hamFixed, hsyn, hj, modify_not_not, hamData_protectHam],
      by simp [checkHam_eq, hsyn, hj, hle, eflag], hsyn,
      (finishCheck_errBit _).trans (by simp [checkHam_eq, hsyn, hle]),
      (finishCheck_corBit _).trans (by simp [checkHam_eq, hsyn, hj])⟩

/-- Settles O55: the word checked has three flips, or, where the sum of the positions lies outside, two. -/
theorem hammingMiscorrectsOrReportsTwoFlips : Obligations.HammingMiscorrectsOrReportsTwoFlips := by
  intro s t m body pad i j hs ht hbody hi hj hij
  obtain rfl := Host.Outcome.next.inj ((exec_protectHam hs).symm.trans ht)
  obtain rfl : protectHam m = body := by simpa [protectFrames] using hbody
  have hsyn : syndrome (((protectHam m).modify i not).modify j not) = (i + 1) ^^^ (j + 1) := by
    rw [syndrome_modify (by rwa [List.length_modify]), syndrome_modify hi, syndrome_protectHam, Nat.zero_xor]
  have hpos : 0 < (i + 1) ^^^ (j + 1) := by
    rw [Nat.pos_iff_ne_zero, Ne, Nat.xor_eq_zero_iff]
    omega
  have hlen : (((protectHam m).modify i not).modify j not).length = (protectHam m).length := by simp
  refine ⟨_, hamData (hamFixed (((protectHam m).modify i not).modify j not)), exec_checkHam_unpadded rfl, hsyn,
    by simp [checkHam_eq], fun hle => ?_, fun hlt => ?_⟩
  · replace hle : (i + 1) ^^^ (j + 1) ≤ (protectHam m).length := hsyn ▸ hle
    have hfix : hamFixed (((protectHam m).modify i not).modify j not) =
        (((protectHam m).modify i not).modify j not).modify (((i + 1) ^^^ (j + 1)) - 1) not := by
      rw [hamFixed, hsyn, hlen, if_pos ⟨hpos, hle⟩]
    have hne := hamData_three_flips_ne hi hj hij hle
    rw [hamData_protectHam, ← hfix] at hne
    exact ⟨by simp [checkHam_eq, hsyn, hpos, hle, hle.not_gt, eflag],
      (finishCheck_corBit _).trans (by simp [checkHam_eq, hsyn, hpos, hle]),
      (finishCheck_errBit _).trans (by simp [checkHam_eq, hsyn, hle]), hsyn ▸ congrArg hamData hfix, hne⟩
  · replace hlt : (protectHam m).length < (i + 1) ^^^ (j + 1) := hsyn ▸ hlt
    have hfix : hamFixed (((protectHam m).modify i not).modify j not) =
        ((protectHam m).modify i not).modify j not := by
      rw [hamFixed, hsyn, hlen, if_neg fun h => hlt.not_ge h.2]
    exact ⟨by simp [checkHam_eq, hsyn, hlt, hlt.not_ge, eflag],
      (finishCheck_corBit _).trans (by simp [checkHam_eq, hsyn, hlt]),
      (finishCheck_errBit _).trans (by simp [checkHam_eq, hsyn, hlt]), congrArg hamData hfix⟩

end Sys2Proof.Machine
end

section
/-! The modulator's samples (44_modulator.md R131, R132, R136 to R138): which slot a sample lies in, and the
numbers of its slot. -/

namespace Sys2Proof.Machine

/-! ## Slots -/

section Slots
variable {α β : Type}

theorem getD_slot {g : Nat → α} {t : Nat} (ht : t < 100) (d : α) : (slot g).getD t d = g t := by
  simp [slot, Config.samplesPerBit, ht]

/-- Sample `t` of slot `k` is the value `t` of what item `k` writes. -/
theorem getD_flatMap_slots {g : α → List β} (hg : ∀ a, (g a).length = 100) {l : List α} {k t : Nat}
    (hk : k < l.length) (ht : t < 100) (d : β) (d' : α) :
    (l.flatMap g).getD (100 * k + t) d = (g (l.getD k d')).getD t d := by
  induction l generalizing k with
  | nil => simp at hk
  | cons a l ih =>
    rw [List.flatMap_cons]
    cases k with
    | zero => rw [Nat.mul_zero, Nat.zero_add, List.getD_append _ _ _ _ (by rwa [hg]), List.getD_cons_zero]
    | succ k =>
      rw [List.getD_append_right _ _ _ _ (by rw [hg]; omega), hg, List.getD_cons_succ,
        ← ih (Nat.lt_of_succ_lt_succ hk), Nat.mul_succ, Nat.add_right_comm, Nat.add_sub_cancel]

theorem getD_modAsk {a f : Number} {b : BitSeq} {k t : Nat} (hk : k < b.length) (ht : t < 100) :
    (modAsk a f b).getD (100 * k + t) .zero = if b.getD k false then .sine a f t else .zero := by
  refine (getD_flatMap_slots (fun x => by cases x <;> exact length_slot _) hk ht Sample.zero false).trans ?_
  split <;> exact getD_slot ht _

theorem getD_modFsk {a f1 f2 : Number} {b : BitSeq} {k t : Nat} (hk : k < b.length) (ht : t < 100) :
    (modFsk a f1 f2 b).getD (100 * k + t) .zero = .sine a (if b.getD k false then f1 else f2) t :=
  (getD_flatMap_slots (fun _ => length_slot _) hk ht Sample.zero false).trans (getD_slot ht _)

theorem getD_qamSamples {f : Number} {a : List QamPoint} {k t : Nat} (hk : k < a.length) (ht : t < 100)
    (d : QamPoint) : (qamSamples f a).getD (100 * k + t) .zero = .phasor (a.getD k d) f t :=
  (getD_flatMap_slots (fun _ => length_slot _) hk ht Sample.zero d).trans (getD_slot ht _)

end Slots

/-! ## The symbols of 8-QAM -/

theorem length_pieces {w : Nat} (hw : 0 < w) (c : BitSeq) : (pieces w c).length = (c.length + w - 1) / w := by
  induction c using drop_induction hw with
  | nil => exact (Nat.div_eq_of_lt (by simp; omega)).symm
  | cut c hc ih =>
    have hpos := List.length_pos_iff.mpr hc
    rw [pieces_of_ne_nil hw hc, List.length_cons, ih, List.length_drop, ← Nat.add_div_right _ hw]
    by_cases hle : w ≤ c.length
    · congr 1
      omega
    · rw [Nat.div_eq_of_lt_le (k := 1), Nat.div_eq_of_lt_le (k := 1)] <;> omega

theorem getD_pieces {w : Nat} (hw : 0 < w) (c : BitSeq) (k : Nat) :
    (pieces w c).getD k [] = (c.drop (w * k)).take w := by
  induction c using drop_induction hw generalizing k with
  | nil => simp
  | cut c hc ih =>
    rw [pieces_of_ne_nil hw hc]
    cases k with
    | zero => rfl
    | succ k => rw [List.getD_cons_succ, ih, List.drop_drop, Nat.mul_succ, Nat.add_comm]

theorem take_three_drop {c : BitSeq} {n : Nat} (h : n + 3 ≤ c.length) :
    (c.drop n).take 3 = [c.getD n false, c.getD (n + 1) false, c.getD (n + 2) false] := by
  have h0 : n < c.length := by omega
  have h1 : n + 1 < c.length := by omega
  have h2 : n + 2 < c.length := by omega
  rw [List.drop_eq_getElem_cons h0, List.drop_eq_getElem_cons h1, List.drop_eq_getElem_cons h2]
  simp only [List.take_succ_cons, List.take_zero, List.getD_eq_getElem _ _ h0, List.getD_eq_getElem _ _ h1,
    List.getD_eq_getElem _ _ h2]

theorem length_qamPadded (b : BitSeq) : (qamPadded b).length = 3 * ((b.length + 2) / 3) := by
  simp only [qamPadded, rep, List.length_append, List.length_replicate, Config.qamBitsPerSymbol]
  omega

theorem getD_qamPadded (b : BitSeq) (k : Nat) : (qamPadded b).getD k false = b.getD k false := by
  rw [qamPadded, rep]
  by_cases hk : k < b.length
  · rw [List.getD_append _ _ _ _ hk]
  · rw [List.getD_append_right _ _ _ _ (by omega), List.getD_eq_default b _ (by omega)]
    simp [List.getD_eq_getElem?_getD, List.getElem?_replicate]
    split <;> rfl

theorem length_qamPoints (b : BitSeq) : (qamPoints b).length = (b.length + 2) / 3 := by
  rw [qamPoints, List.length_map, Config.qamBitsPerSymbol, length_pieces (by decide), length_qamPadded]
  omega

/-- The amplitude of the bit triple `k`. -/
theorem getD_qamPoints {b : BitSeq} {k : Nat} (hk : k < (b.length + 2) / 3) :
    (qamPoints b).getD k (qamTable []) =
      qamTable [b.getD (3 * k) false, b.getD (3 * k + 1) false, b.getD (3 * k + 2) false] := by
  rw [qamPoints, List.getD_map, Config.qamBitsPerSymbol, getD_pieces (by decide),
    take_three_drop (by rw [length_qamPadded]; omega)]
  simp only [getD_qamPadded]

theorem qamTime_succ (n : Nat) : qamTime (n + 1) = qamTime n ++ slot fun t => (n : Rat) + (t : Rat) / 100 := by
  simp [qamTime, List.range_succ, Config.samplesPerBit]

/-- The time axis runs on through the slots. -/
theorem qamTime_eq (n : Nat) : qamTime n = (List.range (100 * n)).map fun (j : Nat) => (j : Rat) / 100 := by
  induction n with
  | zero => rfl
  | succ n ih =>
    rw [qamTime_succ, Nat.mul_succ, List.range_add, List.map_append, ih, List.map_map]
    refine congrArg (_ ++ List.map · (List.range 100)) (funext fun t => ?_)
    simp only [Function.comp_apply, Nat.cast_add, Nat.cast_mul, Nat.cast_ofNat]
    ring

/-- The amplitude of a bit triple as a number. -/
noncomputable def qamAmplitude (x y z : Bit) : ℂ := (qamTable [x, y, z]).value

theorem qamPoint_value_re (a : QamPoint) : a.value.re = -1 ∨ a.value.re = 1 := by
  obtain ⟨re, im⟩ := a
  cases re <;> simp [QamPoint.value, QamRe.toInt]

theorem qamPoint_value_im (a : QamPoint) :
    a.value.im = -3 ∨ a.value.im = -1 ∨ a.value.im = 1 ∨ a.value.im = 3 := by
  obtain ⟨re, im⟩ := a
  cases im <;> simp [QamPoint.value, QamIm.toInt]

/-! ## The commands -/

section Commands
variable {s : State} {b : BitSeq} {a f f1 f2 : Number}

theorem exec_modAsk (h : s.buf = .bits b) (ha : s.amp = some a) (hf : s.f = some f) :
    exec .modAsk s = .next { doneState s s.buf with sig := modAsk a f b } := by
  change onBits s _ = _
  simp only [onBits_of_bits h, needParam_of_written (p := .amp) ha, needParam_of_written (p := .f) hf, settle_ok,
    finishMod_eq_doneState]

theorem exec_modFsk (h : s.buf = .bits b) (ha : s.amp = some a) (h1 : s.f1 = some f1) (h2 : s.f2 = some f2) :
    exec .modFsk s = .next { doneState s s.buf with sig := modFsk a f1 f2 b } := by
  change onBits s _ = _
  simp only [onBits_of_bits h, needParam_of_written (p := .amp) ha, needParam_of_written (p := .f1) h1,
    needParam_of_written (p := .f2) h2, settle_ok, finishMod_eq_doneState]

theorem exec_modQam8 (hq : s.hasQam8 = true) (h : s.buf = .bits b) (hf : s.fmod = some f) :
    exec .modQam8 s = .next
      { doneState s s.buf with
        sig := qamSamples f (qamPoints b)
        sigNsym := (qamPoints b).length
        sigTime := qamTime (qamPoints b).length } := by
  change execModQam8 s = _
  simp only [execModQam8, if_pos hq, onBits_of_bits h, needParam_of_written (p := .fmod) hf, settle_ok,
    finishMod_eq_doneState]

end Commands

/-! ## The statements -/

/-- Settles O56. -/
theorem modAskSamples : Obligations.ModAskSamples := by
  refine ⟨by decide, kindChecked_of_ne_modQam8 (by decide), fun s b a f h ha hf =>
    ⟨_, exec_modAsk h ha hf, length_modAsk a f b, fun ν k t hk ht => ?_⟩⟩
  rw [getD_modAsk hk ht]
  split
  · simp only [Sample.value, Config.samplesPerBit, Nat.cast_ofNat]
  · rfl

/-- Settles O57. -/
theorem modFskSamples : Obligations.ModFskSamples := by
  refine ⟨by decide, kindChecked_of_ne_modQam8 (by decide), fun s b a f1 f2 h ha h1 h2 =>
    ⟨_, exec_modFsk h ha h1 h2, length_modFsk a f1 f2 b, fun ν k t hk ht => ?_⟩⟩
  rw [getD_modFsk hk ht]
  simp only [Sample.value, Config.samplesPerBit, Nat.cast_ofNat]

/-- Settles O58: the table is the model's, with whatever free entries it has. -/
theorem modQamSamples : Obligations.ModQamSamples := by
  refine ⟨by decide, qamAmplitude, ?_, ?_, fun x y z => ⟨qamPoint_value_re _, qamPoint_value_im _⟩,
    fun s b f hq h hf => ⟨qamSamples f (qamPoints b), ?_, ?_, fun ν k t hk ht => ?_⟩⟩
  · simp [qamAmplitude, qamTable, QamPoint.value, QamRe.toInt, QamIm.toInt]
  · simp [qamAmplitude, qamTable, QamPoint.value, QamRe.toInt, QamIm.toInt]
  · rw [exec_modQam8 hq h hf, length_qamPoints, qamTime_eq]
  · rw [length_qamSamples, length_qamPoints]
  · rw [getD_qamSamples (by rwa [length_qamPoints]) ht (qamTable []), getD_qamPoints hk]
    simp only [Sample.value, Config.samplesPerBit, Nat.cast_ofNat, qamAmplitude]

end Sys2Proof.Machine
end

section
/-! A whole exchange (45_pipeline.md R140, R141, R144): each stage of the receive sequence gives back what the
same stage of the transmit sequence was given. -/

namespace Sys2Proof.Machine

/-- A frame without declared padding. -/
def unpadded (c : BitSeq) : Frame := ⟨c, 0#8⟩

/-! ## Line coding -/

section Line
variable {s : State} {b : BitSeq}

theorem exec_line (l : LineScheme) (h : s.buf = .bits b) : ∃ c : Buf,
    exec (lencOf l) s = .next (doneState s c) ∧
      exec (lmapOf l) (doneState s c) = .next (doneState (doneState s c) (.bits (lineRep l b))) := by
  cases l with
  | nrz => exact ⟨_, exec_lencNrz h, (exec_lmapNrz rfl).trans (by rw [ldecNrz_lencNrz]; rfl)⟩
  | man => exact ⟨_, exec_lencMan h, exec_lmapMan rfl⟩
  | ami => exact ⟨_, exec_lencAmi h, (exec_lmapAmi rfl).trans (by rw [ldecAmi_lencAmi (by decide)]; rfl)⟩

/-- What is left to do after `JOIN` gives the message back and no flag. -/
theorem run_rxLine (l : LineScheme) (h : s.buf = .bits (lineRep l b)) (hs : s.faultBit = false) :
    ∃ w, runCommands (rxLineCommands l) s = .next w ∧ w.buf = .bits b ∧ w.faultBit = false ∧
      w.eflags = s.eflags := by
  cases l with
  | nrz => exact ⟨s, rfl, h, hs, rfl⟩
  | man =>
    refine ⟨doneState s (.bits b), ?_, rfl, doneState_faultBit _ _, rfl⟩
    rw [rxLineCommands, runCommands_singleton,
      exec_ldecMan_of_even h (by rw [lineRep, length_lencMan]; exact Nat.mul_mod_right _ _), lineRep, ldecMan_lencMan]
  | ami => exact ⟨s, rfl, h, hs, rfl⟩

end Line

/-! ## Framing -/

theorem exec_split {l : LineScheme} (f : FramingScheme) {s : State} {b : BitSeq}
    (h : s.buf = .bits (lineRep l b)) :
    exec (splitOf f) s = .next (doneState s (.frames ((chunksOf l f b).map unpadded))) := by
  cases f with
  | cc => exact exec_splitCc h
  | byte => exact exec_splitByte h
  | bit => exact exec_splitBit h

/-- The frame a coded body arrives in. -/
def arrived : FramingScheme → BitSeq → Frame
  | .cc, x => paddedFrame (unpadded x)
  | .byte, x => paddedFrame (unpadded x)
  | .bit, x => unpadded x

theorem paddedFrame_pad_le (x : Frame) : (paddedFrame x).pad.toNat ≤ (paddedFrame x).body.length := by
  rw [paddedFrame, toNat_ofNat_ceil8, length_padded]
  exact Nat.le_add_left _ _

theorem arrived_pad_le (f : FramingScheme) (x : BitSeq) : (arrived f x).pad.toNat ≤ (arrived f x).body.length := by
  cases f with
  | cc | byte => exact paddedFrame_pad_le _
  | bit => exact Nat.zero_le _

theorem stripped_paddedFrame (x : BitSeq) : stripped (paddedFrame (unpadded x)) = x := by
  rw [stripped, paddedFrame, toNat_ofNat_ceil8, length_padded, Nat.add_sub_cancel]
  exact List.take_left

theorem stripped_arrived (f : FramingScheme) (x : BitSeq) : stripped (arrived f x) = x := by
  cases f with
  | cc | byte => exact stripped_paddedFrame x
  | bit => simp [arrived, unpadded, stripped]

theorem ccFrameBits_eq_ccWire (x : Frame) : ccFrameBits x = ccWire (paddedFrame x) := by
  rw [ccWire, paddedFrame, toNat_ofNat_ceil8, length_padded]
  exact List.append_assoc _ _ _

theorem ccFrame_paddedFrame {x : Frame} (h : 2 + (x.body.length + ceil8 x.body.length) / 8 < 256) :
    CcFrame (paddedFrame x) := by
  refine ⟨?_, ?_, paddedFrame_pad_le x⟩
  · rw [paddedFrame, length_padded, add_ceil8_mod]
  · rwa [paddedFrame, length_padded]

section Framing
variable {i j : Instr} {D : BitSeq → Except Raise (List Frame)} {Good : Frame → Prop}
  {wire g : Frame → BitSeq} {frame : BitSeq → Frame} {xs : List BitSeq}

/-- `WRAP` of the bodies `xs` sends bits on which `DEFRAME` gives `frame` of every body. -/
def Transports (j i : Instr) (frame : BitSeq → Frame) (xs : List BitSeq) : Prop := ∃ v : BitSeq,
  (∀ s : State, s.buf = .frames (xs.map unpadded) → exec j s = .next (doneState s (.bits v))) ∧
    ∀ u : State, u.buf = .bits v → exec i u = .next (doneState u (.frames (xs.map frame)))

theorem Deframes.transports (hd : Deframes i D Good wire)
    (hj : ∀ s : State, s.buf = .frames (xs.map unpadded) →
      exec j s = .next (doneState s (.bits ((xs.map unpadded).flatMap g))))
    (hg : ∀ x, g (unpadded x) = wire (frame x)) (hgood : ∀ x ∈ xs, Good (frame x)) :
    Transports j i frame xs := by
  refine ⟨_, hj, fun u hu => (hd.exec_iff hu _).mpr ⟨List.forall_mem_map.mpr hgood, ?_⟩⟩
  simp only [List.flatMap_map, hg]

/-- Premises (d) and (e) of R144 are what the formats need. -/
theorem transports (f : FramingScheme) (e : ErrorScheme) (hx : ∀ x ∈ xs, Carries f e x) :
    Transports (wrapOf f e) (deframeOf f e) (arrived f) xs := by
  have hbyte (x : BitSeq) : wrapByteFrame (unpadded x) = byteWire (arrived .byte x) := wrapByteFrame_eq_byteWire _
  match f, e with
  | .cc, _ =>
    refine deframes_cc.transports (fun s hs => exec_wrapCc_of_fits hs (List.forall_mem_map.mpr fun x hm => ?_))
      (fun x => ccFrameBits_eq_ccWire _) fun x hm => ccFrame_paddedFrame (hx x hm)
    exact Nat.le_of_lt_succ (hx x hm)
  | .byte, _ =>
    exact deframes_byte.transports (fun s hs => exec_wrapByte hs) hbyte fun x hm =>
      (byteFrame_paddedFrame_iff _).mpr (hx x hm)
  | .bit, .crc =>
    exact deframes_bith.transports (fun s hs => exec_wrapBith hs) (fun x => rfl) fun x hm =>
      ⟨Nat.zero_le _, hx x hm⟩
  | .bit, .par | .bit, .ham =>
    exact deframes_bit.transports (fun s hs => exec_wrapBit hs) (fun x => rfl) fun x hm => ⟨rfl, hx x hm⟩

end Framing

/-! ## Error control -/

section Control
variable {s : State} {cs : List BitSeq} {frame : BitSeq → Frame}

/-- Every frame's filler is what the table says. -/
def FillsAre (tab : List Byte) (cs : List BitSeq) : Prop :=
  ∀ k (c : BitSeq), cs[k]? = some c → (tab.getD k 0#8).toNat = 64 - c.length

theorem fillsAre_of_map : FillsAre (cs.map fun c => BitVec.ofNat 8 (64 - c.length)) cs := by
  intro k c hk
  simp [List.getD_eq_getElem?_getD, hk]
  omega

theorem fillsAre_of_zero {tab : List Byte} (hc : ∀ c ∈ cs, 64 ≤ c.length) (htab : ∀ x ∈ tab, x = 0#8) :
    FillsAre tab cs := by
  intro k c hk
  have hzero : tab.getD k 0#8 = 0#8 := by
    rw [List.getD_eq_getElem?_getD]
    cases hx : tab[k]? with
    | none => rfl
    | some x => exact htab x (List.mem_of_getElem? hx)
  have := hc c (List.mem_of_getElem? hk)
  rw [hzero, BitVec.toNat_zero]
  omega

theorem exec_protect (e : ErrorScheme) (h : s.buf = .frames (cs.map unpadded)) : ∃ t : State,
    exec (protectOf e) s = .next t ∧ t.buf = .frames ((cs.map (codedBody e)).map unpadded) ∧
      t.faultBit = false ∧ (e = .crc → FillsAre t.filltab cs) := by
  have hmap (g : BitSeq → BitSeq) : protectFrames g (cs.map unpadded) = (cs.map g).map unpadded := by
    simp only [protectFrames, List.map_map]
    rfl
  cases e with
  | par => exact ⟨_, exec_protectPar h, congrArg _ (hmap _), doneState_faultBit _ _, nofun⟩
  | ham => exact ⟨_, exec_protectHam h, congrArg _ (hmap _), doneState_faultBit _ _, nofun⟩
  | crc =>
    have hfault := doneState_faultBit s (.frames (protectFrames protectCrc (cs.map unpadded)))
    refine ⟨_, exec_protectCrc h, congrArg _ (hmap _), hfault, fun _ => ?_⟩
    simp only [List.map_map]
    exact fillsAre_of_map

/-- The state after a `CHECK` that found the payloads `cs` and no error. -/
def FoundClean (cs : List BitSeq) (w : State) : Prop :=
  w.buf = .frames (cs.map unpadded) ∧ w.faultBit = false ∧ ∀ x ∈ w.eflags, x = 0#2

theorem foundClean_finishCheck {rs : List Checked} (hrs : rs = cs.map fun c => ⟨c, false, false⟩) :
    FoundClean cs (s.finishCheck rs) := by
  subst hrs
  refine ⟨?_, finishCheck_faultBit _ _, ?_⟩
  · simp [Function.comp_def, unpadded]
  · simp [eflag]

theorem crcChecked_protectCrc {x : Frame} {m : BitSeq} (hx : stripped x = protectCrc m) :
    crcChecked (64 - m.length) x = ⟨m, false, false⟩ := by
  have hclean : x.body.take (x.body.length - x.pad.toNat - 32 - (64 - m.length)) = m := by
    have htake := take_protectCrc m
    rwa [← hx, length_stripped, stripped, List.take_take, Nat.min_eq_left (by omega)] at htake
  simp only [crcChecked, hclean, hx, polymod_protectCrc]
  rfl

theorem checkHam_protectHam (m : BitSeq) : (checkHam (protectHam m)).1 = ⟨m, false, false⟩ := by
  simp [checkHam_eq, hamFixed, syndrome_protectHam, hamData_protectHam]

/-- Where every frame's stripped body is the coded payload, `CHECK` gives the payloads back. -/
theorem exec_check (e : ErrorScheme) (hpad : ∀ x, (frame x).pad.toNat ≤ (frame x).body.length)
    (hstrip : ∀ x, stripped (frame x) = x) (h : s.buf = .frames ((cs.map (codedBody e)).map frame))
    (hfill : e = .crc → FillsAre s.filltab cs) :
    ∃ w, exec (checkOf e) s = .next w ∧ FoundClean cs w := by
  rw [List.map_map] at h
  cases e with
  | par =>
    refine ⟨_, exec_checkPar h (List.forall_mem_map.mpr fun c _ => ?_), foundClean_finishCheck ?_⟩
    · refine Nat.lt_of_sub_pos ?_
      rw [← length_stripped, Function.comp_apply, hstrip]
      simp [codedBody, protectPar]
    · simp only [List.map_map, Function.comp_def, hstrip, codedBody, parChecked_protectPar]
  | crc =>
    refine ⟨_, exec_checkCrc h fun k hk => ?_, foundClean_finishCheck ?_⟩
    · have hkc : k < cs.length := by simpa using hk
      have hlen := length_stripped (frame (protectCrc cs[k]))
      rw [hstrip, length_protectCrc] at hlen
      have hfillk := hfill rfl k _ (List.getElem?_eq_getElem hkc)
      have hframe : (cs.map (frame ∘ codedBody .crc)).getD k default = frame (protectCrc cs[k]) := by
        simp [hkc, codedBody]
      rw [hframe, hfillk]
      omega
    · refine List.ext_getElem (by simp) fun k hk _ => ?_
      have hkc : k < cs.length := by simpa using hk
      simp only [List.getElem_mapIdx, List.getElem_map, Function.comp_apply, codedBody]
      rw [hfill rfl k _ (List.getElem?_eq_getElem hkc), crcChecked_protectCrc (hstrip _)]
  | ham =>
    refine ⟨_, exec_checkHam h (List.forall_mem_map.mpr fun c _ => hpad _), foundClean_finishCheck ?_⟩
    simp only [List.map_map, Function.comp_def, hstrip, codedBody, checkHam_protectHam]

end Control

/-! ## The two sequences -/

section Exchange
variable {l : LineScheme} {f : FramingScheme} {e : ErrorScheme} {s u : State} {b : BitSeq}

theorem map_unpadded_flatMap_body (cs : List BitSeq) : (cs.map unpadded).flatMap Frame.body = cs.flatten := by
  rw [List.flatMap_def, List.map_map]
  exact congrArg List.flatten (List.map_id cs)

theorem flatten_chunksOf : (chunksOf l f b).flatten = lineRep l b := by
  cases f <;> exact flatten_chunk 254 (by decide) _

/-- The transmit sequence: what `PROTECT` and `WRAP` make of the chunks. -/
theorem run_txCommands (h : s.buf = .bits b) {v : BitSeq}
    (hwrap : ∀ s : State, s.buf = .frames (((chunksOf l f b).map (codedBody e)).map unpadded) →
      exec (wrapOf f e) s = .next (doneState s (.bits v))) :
    ∃ t, runCommands (txCommands l f e) s = .next t ∧ t.buf = .bits v ∧ t.faultBit = false ∧
      (e = .crc → FillsAre t.filltab (chunksOf l f b)) := by
  obtain ⟨c, hlenc, hlmap⟩ := exec_line l h
  obtain ⟨t, hprotect, hbuf, hfault, hfill⟩ := exec_protect (cs := chunksOf l f b)
    (s := doneState (doneState (doneState s c) (.bits (lineRep l b))) (.frames ((chunksOf l f b).map unpadded))) e rfl
  refine ⟨doneState t (.bits v), ?_, rfl, doneState_faultBit _ _, hfill⟩
  rw [txCommands, runCommands_cons_done hlenc, runCommands_cons_done hlmap, runCommands_cons_done (exec_split f rfl)]
  exact (runCommands_cons hprotect hfault _).trans ((runCommands_singleton _ _).trans (hwrap t hbuf))

/-- The receive sequence, where the right fill is recorded for every chunk. -/
theorem run_rxCommands
    (hdeframe : exec (deframeOf f e) u =
      .next (doneState u (.frames (((chunksOf l f b).map (codedBody e)).map (arrived f)))))
    (hfill : e = .crc → FillsAre u.filltab (chunksOf l f b)) :
    ∃ w, runCommands (rxCommands l f e) u = .next w ∧ w.buf = .bits b ∧ w.faultBit = false ∧
      ∀ x ∈ w.eflags, x = 0#2 := by
  obtain ⟨w, hcheck, hbuf, hfault, hflags⟩ :=
    exec_check e (arrived_pad_le f) (stripped_arrived f)
      (s := doneState u (.frames (((chunksOf l f b).map (codedBody e)).map (arrived f)))) rfl hfill
  have hjoin := exec_join hbuf
  rw [map_unpadded_flatMap_body, flatten_chunksOf] at hjoin
  obtain ⟨x, hline, hx, hxfault, hxflags⟩ :=
    run_rxLine (s := doneState w (.bits (lineRep l b))) l rfl (doneState_faultBit _ _)
  refine ⟨x, ?_, hx, hxfault, fun y hy => hflags y (hxflags ▸ hy)⟩
  rw [rxCommands, List.cons_append, runCommands_cons_done hdeframe, List.cons_append, runCommands_cons hcheck hfault,
    List.cons_append, runCommands_cons_done hjoin]
  exact hline

end Exchange

/-- Settles O60: each stage of the receive sequence undoes its stage of the transmit sequence. -/
theorem receiveInvertsTransmit : Obligations.ReceiveInvertsTransmit := by
  intro l f e s b hs hex
  obtain ⟨v, hwrap, hdeframe⟩ := transports f e (List.forall_mem_map.mpr hex)
  obtain ⟨t, ht, hbuf, hfault, hfill⟩ := run_txCommands hs hwrap
  refine ⟨t, v, ht, hbuf, hfault, fun u hu hconveyed => run_rxCommands (hdeframe u hu) fun he => ?_⟩
  obtain hsame | ⟨hlong, hzero⟩ := hconveyed he
  · exact hsame ▸ hfill he
  · exact fillsAre_of_zero hlong hzero

end Sys2Proof.Machine
end
